-- ==== Sys2Proof/Word.lean ====
section
/-! DEFINITION. The word types of NTPS and their plainest readings (00_scope.md R10). -/

namespace Sys2Proof

/-- A register, a coefficient cell or a bus data word of NTPS-1 (00_scope.md R8), a command word
(30_encoding.md R80), an output word of the keystream (43_keystream.md R151): 32 bits. -/
abbrev Word := BitVec 32

/-- A keystream word or the RESULT value: 64 bits (43_keystream.md R150, 10_state.md R30). -/
abbrev DWord := BitVec 64

/-- A seed byte or a byte lane of the bus (20_memory.md R64, R65). -/
abbrev Byte := BitVec 8

/-- `uint32` of 00_scope.md R10. -/
abbrev uint32 (v : Word) : Nat := v.toNat

/-- `sint32` of 00_scope.md R10. -/
abbrev sint32 (v : Word) : Int := v.toInt

/-- `wrap32` of 00_scope.md R10. -/
abbrev wrap32 (x : Int) : Word := BitVec.ofInt 32 x

/-- The 64-bit two's complement field of an integer (10_state.md R30). -/
abbrev wrap64 (x : Int) : DWord := BitVec.ofInt 64 x

end Sys2Proof
end

