-- ==== Sys2Proof/Syntax.lean ====
section
/-! DEFINITION. The commands (30_encoding.md R83), their aliases (R88), the registers (10_state.md
R21), the inputs the outside world gives the block, and the host script's statements (R86 to R92). -/

namespace Sys2Proof

/-- The 30 commands, one constructor per row of 30_encoding.md R83. No command has an operand
field: SEL selects the PARAM command and every other operand is implicit (R82). -/
inductive Instr where
  | zeroS | zeroU | initS | initU
  | lift | down
  | istriS | istriU | hammingS | hammingU | norm1S | norm1U
  | gateS | gateU
  | sampleT | sampleTP | sampleTU | sampleTPU
  | uniform
  | paramN | paramK | paramSeedbits | paramCoinbits | paramSkeybits | paramLogq | paramQ
  | paramTritbits | paramPkbits | paramSkbits | paramCtbits
  deriving DecidableEq, Repr

/-- The mnemonic spellings (30_encoding.md R83, R87). -/
def Instr.mnemonic : Instr → String
  | .zeroS => "ZERO.S" | .zeroU => "ZERO.U" | .initS => "INIT.S" | .initU => "INIT.U"
  | .lift => "LIFT" | .down => "DOWN"
  | .istriS => "ISTRI.S" | .istriU => "ISTRI.U"
  | .hammingS => "HAMMING.S" | .hammingU => "HAMMING.U"
  | .norm1S => "NORM1.S" | .norm1U => "NORM1.U"
  | .gateS => "GATE.S" | .gateU => "GATE.U"
  | .sampleT => "SAMPLE_T" | .sampleTP => "SAMPLE_TP"
  | .sampleTU => "SAMPLE_T.U" | .sampleTPU => "SAMPLE_TP.U"
  | .uniform => "UNIFORM"
  | .paramN => "PARAM.N" | .paramK => "PARAM.K"
  | .paramSeedbits => "PARAM.SEEDBITS" | .paramCoinbits => "PARAM.COINBITS"
  | .paramSkeybits => "PARAM.SKEYBITS" | .paramLogq => "PARAM.LOGQ" | .paramQ => "PARAM.Q"
  | .paramTritbits => "PARAM.TRITBITS" | .paramPkbits => "PARAM.PKBITS"
  | .paramSkbits => "PARAM.SKBITS" | .paramCtbits => "PARAM.CTBITS"

/-- The command aliases of 30_encoding.md R88. -/
inductive CmdAlias where
  | modS3S | s3ToZxS | modS3U | s3ToZxU | u2s | s2u | sampleTPlus | sampleTPlusU
  deriving DecidableEq, Repr

/-- An alias as the script spells it (30_encoding.md R88). -/
def CmdAlias.spelling : CmdAlias → String
  | .modS3S => "MOD_S3.S" | .s3ToZxS => "S3_TO_ZX.S"
  | .modS3U => "MOD_S3.U" | .s3ToZxU => "S3_TO_ZX.U"
  | .u2s => "U2S" | .s2u => "S2U"
  | .sampleTPlus => "SAMPLE_T+" | .sampleTPlusU => "SAMPLE_T+.U"

/-- A command as a script names it: by its own mnemonic or by an alias. -/
inductive CmdName where
  | core (i : Instr)
  | byAlias (a : CmdAlias)
  deriving DecidableEq, Repr

/-- The named registers of 10_state.md R21. -/
inductive Reg where
  | id | hwcfg | ctrl | status | cmd | degree | dlabel
  | seed (k : Fin 8)
  | resultLo | resultHi | sDeg | sMod | uDeg | uMod
  deriving DecidableEq, Repr

/-- What an aligned offset inside the window names (20_memory.md R60, R63, 10_state.md R37). -/
inductive Target where
  | reg (r : Reg)
  | sCell (i : Nat)
  | uCell (i : Nat)
  | reserved
  deriving DecidableEq, Repr

/-- The widths a bus access can have (20_memory.md R62). -/
inductive Width where
  | w8 | w16 | w32 | w64
  deriving DecidableEq, Repr

/-- The bits an access of this width moves. -/
def Width.bits : Width → Nat
  | .w8 => 8 | .w16 => 16 | .w32 => 32 | .w64 => 64

/-- A byte offset from BASE: the block decodes offset bits [13:0] only (20_memory.md R61). -/
abbrev Offset := BitVec 14

/-- One input of the outside world: an access of the host, one pass or more of the host's WAIT loop
(30_encoding.md R92), or an edge of the hard reset input (70_reset_and_hazards.md R230). A write
carries the data bits an answered write has, `wr` of them (00_scope.md R8: the bus data width); a
write of another width is refused whatever it carries. -/
inductive InputOf (wr : Nat) where
  | read (w : Width) (off : Offset)
  | write (w : Width) (off : Offset) (v : BitVec wr)
  | wait
  | resetAssert
  | resetRelease
  deriving DecidableEq, Repr

/-- One input of NTPS-1, with its 32 data bits. -/
abbrev Input := InputOf 32

/-- A statement of the host script (30_encoding.md R86, R89 to R92). -/
inductive HostStmt where
  | wr (r : Reg) (v : Int)
  | wrS (i : Nat) (v : Int)
  | wrU (i : Nat) (v : Int)
  | rd (r : Reg)
  | rdS (i : Nat)
  | rdU (i : Nat)
  | cmd (n : CmdName)
  | seed (bytes : List Byte)
  | rdResult
  | run (n : CmdName)
  | wait
  deriving DecidableEq, Repr

end Sys2Proof
end

