-- ==== Sys2Proof/Decode.lean ====
section
/-! DEFINITION. Decoding a command word (30_encoding.md R84), rejecting by name, and encoding a
command (R80, R83). -/

namespace Sys2Proof

/-- Why a word is no command, in the order of the checks of 30_encoding.md R84. Each one ends the
engine step with ILLEGAL_COMMAND (R85). -/
inductive DecodeReject where
  /-- bits [31:16] are not 0 -/
  | reservedBitsSet
  /-- OP is not assigned -/
  | unknownOpcode
  /-- SEL is not 0 and OP is not 0x30 -/
  | selectorNotZero
  /-- OP is 0x30 and SEL is above 10 -/
  | selectorTooLarge
  deriving DecidableEq, Repr

/-- OP, bits [7:0] (30_encoding.md R80). -/
def wordOP (v : Word) : BitVec 8 := v.extractLsb' 0 8

/-- SEL, bits [15:8] (30_encoding.md R80). -/
def wordSEL (v : Word) : BitVec 8 := v.extractLsb' 8 8

/-- RSV, bits [31:16] (30_encoding.md R80). -/
def wordRSV (v : Word) : BitVec 16 := v.extractLsb' 16 16

/-- The commands with SEL = 0 and OP other than 0x30, by OP (30_encoding.md R83). -/
def opcodeRows : List (BitVec 8 × Instr) :=
  [(0x01, .zeroS), (0x02, .zeroU), (0x03, .initS), (0x04, .initU),
   (0x08, .lift), (0x09, .down),
   (0x10, .istriS), (0x11, .istriU), (0x12, .hammingS), (0x13, .hammingU),
   (0x14, .norm1S), (0x15, .norm1U),
   (0x18, .gateS), (0x19, .gateU),
   (0x20, .sampleT), (0x21, .sampleTP), (0x22, .sampleTU), (0x23, .sampleTPU),
   (0x28, .uniform)]

/-- The PARAM commands, OP = 0x30, by SEL (30_encoding.md R83). -/
def paramRows : List (BitVec 8 × Instr) :=
  [(0, .paramN), (1, .paramK), (2, .paramSeedbits), (3, .paramCoinbits), (4, .paramSkeybits),
   (5, .paramLogq), (6, .paramQ), (7, .paramTritbits), (8, .paramPkbits), (9, .paramSkbits),
   (10, .paramCtbits)]

/-- The decode of 30_encoding.md R84, its checks in the rule's order. -/
def decode (v : Word) : Except DecodeReject Instr :=
  if wordRSV v ≠ 0 then .error .reservedBitsSet
  else if wordOP v = 0x30 then
    match paramRows.lookup (wordSEL v) with
    | some i => .ok i
    | none => .error .selectorTooLarge
  else
    match opcodeRows.lookup (wordOP v) with
    | none => .error .unknownOpcode
    | some i => if wordSEL v ≠ 0 then .error .selectorNotZero else .ok i

/-- The OP field of a command (30_encoding.md R83). -/
def opOf : Instr → BitVec 8
  | .zeroS => 0x01 | .zeroU => 0x02 | .initS => 0x03 | .initU => 0x04
  | .lift => 0x08 | .down => 0x09
  | .istriS => 0x10 | .istriU => 0x11 | .hammingS => 0x12 | .hammingU => 0x13
  | .norm1S => 0x14 | .norm1U => 0x15
  | .gateS => 0x18 | .gateU => 0x19
  | .sampleT => 0x20 | .sampleTP => 0x21 | .sampleTU => 0x22 | .sampleTPU => 0x23
  | .uniform => 0x28
  | .paramN | .paramK | .paramSeedbits | .paramCoinbits | .paramSkeybits | .paramLogq | .paramQ
  | .paramTritbits | .paramPkbits | .paramSkbits | .paramCtbits => 0x30

/-- The SEL field of a command (30_encoding.md R83). -/
def selOf : Instr → BitVec 8
  | .zeroS | .zeroU | .initS | .initU | .lift | .down | .istriS | .istriU | .hammingS | .hammingU
  | .norm1S | .norm1U | .gateS | .gateU | .sampleT | .sampleTP | .sampleTU | .sampleTPU
  | .uniform => 0
  | .paramN => 0 | .paramK => 1 | .paramSeedbits => 2 | .paramCoinbits => 3 | .paramSkeybits => 4
  | .paramLogq => 5 | .paramQ => 6 | .paramTritbits => 7 | .paramPkbits => 8 | .paramSkbits => 9
  | .paramCtbits => 10

/-- The command word: RSV = 0, then SEL, then OP, most significant first (30_encoding.md R80). -/
def encode (i : Instr) : Word := (0 : BitVec 16) ++ selOf i ++ opOf i

/-- The command an alias assembles to (30_encoding.md R88). -/
def aliasOf : CmdAlias → Instr
  | .modS3S | .s3ToZxS => .gateS
  | .modS3U | .s3ToZxU => .gateU
  | .u2s => .lift
  | .s2u => .down
  | .sampleTPlus => .sampleTP
  | .sampleTPlusU => .sampleTPU

/-- The command a script name stands for (30_encoding.md R87, R88). -/
def commandOf : CmdName → Instr
  | .core i => i
  | .byAlias a => aliasOf a

/-- The command word whose low `nbits` bits are `w`'s and whose other bits are 0. A command is one
32-bit word (30_encoding.md R81) and one bus write (R86), so no byte order enters. -/
def tableWord (nbits w : Nat) : Word := BitVec.ofNat 32 (w % 2 ^ nbits)

/-- The instruction the decoder reads from a word numbered as spec/opcode_table.json numbers it. -/
def decodeTableWord (nbits w : Nat) : Option Instr := (decode (tableWord nbits w)).toOption

end Sys2Proof
end

