-- ==== Sys2Proof/Config.lean ====
section
/-! DEFINITION. What is fixed at build time (00_scope.md R8) and the free values the spec leaves open. -/

namespace Sys2Proof

/-- The configuration parameters of 00_scope.md R8. They are not state (10_state.md R20): every
operation takes them as an argument and the machine is run at `Config.ntps1`. The three widths are
arguments of the block's TYPE as well (`Machine.BlockOf`, `Machine.BlockFor`, log entry 9). -/
structure Config where
  /-- `PARAM_N`, the ring degree of the built-in parameter set. -/
  paramN : Nat
  /-- `N_MAX`, cells per coefficient buffer and largest legal degree. -/
  nMax : Nat
  /-- `KS_ROUNDS`, ChaCha rounds of the keystream expander. -/
  ksRounds : Nat
  /-- The width of every register and bus data word, in bits. -/
  regWidth : Nat
  /-- The width of each S and U cell, in bits. -/
  cellWidth : Nat
  /-- The seed length, in bits. -/
  seedWidth : Nat
  deriving DecidableEq, Repr

/-- `PARAM_N <= N_MAX <= 1024` (00_scope.md R8). -/
abbrev Config.Legal (c : Config) : Prop := c.paramN ≤ c.nMax ∧ c.nMax ≤ 1024

/-- The bytes of a register or bus data word. -/
def Config.regBytes (c : Config) : Nat := c.regWidth / 8

/-- The bytes of a coefficient cell: the distance of two cells in a window (20_memory.md R63). -/
def Config.cellBytes (c : Config) : Nat := c.cellWidth / 8

/-- The bytes of the seed (10_state.md R29). -/
def Config.seedBytes (c : Config) : Nat := c.seedWidth / 8

/-- The number of SEED registers that hold the seed (10_state.md R29). -/
def Config.seedRegs (c : Config) : Nat := c.seedWidth / c.regWidth

/-- The values this hardware takes (00_scope.md R8). -/
def Config.ntps1 : Config where
  paramN := 701
  nMax := 701
  ksRounds := 20
  regWidth := 32
  cellWidth := 32
  seedWidth := 256

/-- Which multiple of 0x4000 the platform chose for BASE: OPEN (20_memory.md R61, item I5). -/
opaque Config.baseIndex : Nat

/-- `BASE`, the bus address of offset 0 of the window, a multiple of 0x4000 (20_memory.md R61). -/
def Config.base : Nat := 0x4000 * Config.baseIndex

/-- The unspecified value, `wr` bits wide, of a read of RESULT, a tag or a cell while BUSY (70_reset_and_hazards.md
R240, item I1), one value per draw: a free value (log entry 3). -/
opaque Config.freeRead (wr : Nat) : Nat → BitVec wr

/-- How many host accesses are performed between the acceptance of a command and its engine step
(20_memory.md R70, item I2), one number per draw: a free value (log entry 2). -/
opaque Config.freeHostTurns : Nat → Nat

end Sys2Proof
end

