-- ==== Sys2Proof/Machine/State.lean ====
section
/-! DEFINITION. The machine's state: the block (10_state.md R20) and its environment (the model's
own), the reasons a step can stop, and the state after reset (70_reset_and_hazards.md R230). -/

namespace Sys2Proof.Machine

/-- The engine phase (10_state.md R41). -/
inductive Phase where
  | idle | busy
  deriving DecidableEq, Repr

/-- The values STATUS.ERRCODE takes (60_exceptions.md R201). Codes 6 .. 15 are never written, so
they have no constructor (log entry 12). -/
inductive ErrCode where
  | noError
  | unsupportedParameter
  | invalidDegree
  | trinaryViolation
  | illegalCommand
  | modulusNotPow2
  deriving DecidableEq, Repr

/-- The cells of one coefficient buffer (10_state.md R38, R39): pairs of a cell index and its
word, of `wc` bits (00_scope.md R8: the cell width).
Canonical form: indices strictly rising and below N_MAX, no word 0. A cell that is not listed reads
0, the spec's reset value. The unit is the cell because no smaller access exists
(20_memory.md R62, log entry 8). -/
abbrev MemoryOf (wc : Nat) := List (Nat × BitVec wc)

/-- A coefficient buffer of NTPS-1. -/
abbrev Memory := MemoryOf 32

/-- The architectural state of the block, all of it (10_state.md R20). STATUS.BUSY is `phase`
(R41); ID, HWCFG, CTRL and CMD hold nothing (R22, R23, R24, R26). The widths are arguments
(00_scope.md R8): `wr` bits a register, `wc` bits a cell, `ns` SEED registers. -/
structure BlockOf (wr wc ns : Nat) where
  /-- DEGREE (R27) -/
  degree : BitVec wr
  /-- DLABEL (R28) -/
  dlabel : BitVec wr
  /-- SEED0 .. SEED7 (R29) -/
  seed : Vector (BitVec wr) ns
  /-- RESULT_LO (R30) -/
  resultLo : BitVec wr
  /-- RESULT_HI (R30) -/
  resultHi : BitVec wr
  /-- S_DEG (R31) -/
  sDeg : BitVec wr
  /-- S_MOD (R32) -/
  sMod : BitVec wr
  /-- U_DEG (R33) -/
  uDeg : BitVec wr
  /-- U_MOD (R34) -/
  uMod : BitVec wr
  /-- STATUS.ERR (R25) -/
  err : Bool
  /-- STATUS.HAZ (R25) -/
  haz : Bool
  /-- STATUS.ERRCODE (R25) -/
  errCode : ErrCode
  /-- PHASE (R41) -/
  phase : Phase
  /-- LCMD (R41) -/
  lcmd : BitVec wr
  /-- the S cells (R38) -/
  sCells : MemoryOf wc
  /-- the U cells (R39) -/
  uCells : MemoryOf wc
  deriving DecidableEq, Repr

/-- The block of a configuration: its register width, cell width and seed width are those of `c`
(00_scope.md R8). -/
abbrev BlockFor (c : Config) := BlockOf c.regWidth c.cellWidth c.seedRegs

/-- The block of NTPS-1, `BlockFor Config.ntps1` written out: registers and cells of 32 bits, a
seed of 256 bits in eight registers. -/
abbrev Block := BlockOf 32 32 8

/-- What stands outside the block (the model's own, log entry 1). No command reads any of it. -/
structure EnvOf (wr : Nat) where
  /-- the inputs still to come, in the order they take effect (20_memory.md R69) -/
  inputs : List (InputOf wr)
  /-- the words the bus has returned, newest first (log entry 13) -/
  replies : List (BitVec wr)
  /-- how many inputs are still performed before the engine's step, while BUSY (log entry 2) -/
  hostTurns : Nat
  /-- how many free values have been drawn (log entry 3) -/
  draws : Nat
  /-- the hard reset input is asserted (70_reset_and_hazards.md R230, log entry 6) -/
  inReset : Bool
  deriving DecidableEq, Repr

/-- The environment of NTPS-1. -/
abbrev Env := EnvOf 32

/-- The machine: the block of NTPS-1 and its environment. -/
structure State where
  blk : Block
  env : Env
  deriving DecidableEq, Repr

/-- Why the machine stops with a fault. -/
inductive Fault where
  /-- Raised by `step` when the host's next access comes while the hard reset input is asserted: the
  block answers no access then (70_reset_and_hazards.md R230, item I6 "stuck"). Safe: the model
  stops where the host waits. -/
  | accessWhileInReset
  deriving DecidableEq, Repr

/-- Why the machine has no meaning for what comes next. -/
inductive Refusal where
  /-- Raised by an arm of `exec` whose instruction has no meaning yet; no arm does. Safe. -/
  | notModelled (mnemonic : String)
  /-- Raised by `step` for an access that is not 32 bits wide or not at a multiple of 4: a bus error
  that changes no state (20_memory.md R62, item I3 "refuse"). Safe: the model stops. -/
  | busErrorWidthOrAlignment
  /-- Raised by `step` for an access at offset 0x3000 or above: the platform's, not the block's
  (20_memory.md R61, item I4 "refuse"). Safe: the model stops. -/
  | outsideWindow
  deriving DecidableEq, Repr

/-- The block when reset ends (70_reset_and_hazards.md R230, R232). -/
def Block.reset {wr wc ns : Nat} (c : Config) : BlockOf wr wc ns where
  degree := BitVec.ofNat wr c.paramN
  dlabel := 0
  seed := Vector.replicate ns 0
  resultLo := 0
  resultHi := 0
  sDeg := 0
  sMod := 0
  uDeg := 0
  uMod := 0
  err := false
  haz := false
  errCode := .noError
  phase := .idle
  lcmd := 0
  sCells := []
  uCells := []

/-- An environment that has not acted yet (DESIGN CHOICE, log entry 15). -/
def Env.reset : Env where
  inputs := []
  replies := []
  hostTurns := 0
  draws := 0
  inReset := false

/-- The machine right after reset. -/
def State.reset : State where
  blk := Block.reset Config.ntps1
  env := Env.reset

end Sys2Proof.Machine
end

