-- ==== Sys2Proof/Machine/Flags.lean ====
section
/-! DEFINITION. STATUS and its fields (10_state.md R25): the only flags the block has (R43). -/

namespace Sys2Proof.Machine

variable {wr wc ns : Nat}

/-- The number of an error code (60_exceptions.md R201). -/
def errCodeBits : ErrCode → BitVec 4
  | .noError => 0
  | .unsupportedParameter => 1
  | .invalidDegree => 2
  | .trinaryViolation => 3
  | .illegalCommand => 4
  | .modulusNotPow2 => 5

/-- STATUS.BUSY is 1 exactly when PHASE = BUSY (10_state.md R41). -/
def busyBit (b : BlockOf wr wc ns) : Bool := b.phase == .busy

/-- The STATUS word: ERRCODE in [7:4], 0 in bit 3, HAZ, ERR, BUSY (10_state.md R25). -/
def statusWord (b : BlockOf wr wc ns) : Word :=
  (0 : BitVec 24) ++ errCodeBits b.errCode ++ (0 : BitVec 1) ++ BitVec.ofBool b.haz
    ++ BitVec.ofBool b.err ++ BitVec.ofBool (busyBit b)

/-- A dropped access sets HAZ and changes nothing else (70_reset_and_hazards.md R241). -/
def setHazard (b : BlockOf wr wc ns) : BlockOf wr wc ns := { b with haz := true }

/-- A write of `v` to STATUS: bit 2 = 1 clears HAZ, nothing else happens (10_state.md R25). -/
def writeStatus (v : BitVec wr) (b : BlockOf wr wc ns) : BlockOf wr wc ns :=
  if v.getLsbD 2 then { b with haz := false } else b

end Sys2Proof.Machine
end

