-- ==== Sys2Proof/Machine/Ops.lean ====
section
/-! DEFINITION. The named operations over the coefficient buffers, RESULT and the tags, the error
record (60_exceptions.md R203), and how a command's effect ends the engine step. -/

namespace Sys2Proof.Machine

variable {wr wc ns : Nat}

/-! ## The cells of a buffer -/

/-- Cell `i` of a buffer; an unlisted cell reads 0 (10_state.md R38, R39). -/
def Memory.read : MemoryOf wc → Nat → BitVec wc
  | [], _ => 0#wc
  | (k, w) :: m, i => if k = i then w else Memory.read m i

/-- The buffer with cell `i` set to `v`, in canonical form. -/
def Memory.write : MemoryOf wc → Nat → BitVec wc → MemoryOf wc
  | [], i, v => if v = 0#wc then [] else [(i, v)]
  | (k, w) :: m, i, v =>
    if i < k then (if v = 0#wc then (k, w) :: m else (i, v) :: (k, w) :: m)
    else if i = k then (if v = 0#wc then m else (i, v) :: m)
    else (k, w) :: Memory.write m i v

/-- The buffer whose cells from index `k` on are `ws` and whose other cells are 0. -/
def Memory.ofListFrom : Nat → List (BitVec wc) → MemoryOf wc
  | _, [] => []
  | k, w :: ws =>
    if w = 0#wc then Memory.ofListFrom (k + 1) ws else (k, w) :: Memory.ofListFrom (k + 1) ws

/-- The buffer a producing command leaves: `ws` in cells 0, 1, ..., and 0 in every later cell
(10_state.md R38, R39). Only N_MAX cells exist (log entry 10). -/
def Memory.ofList (c : Config) (ws : List (BitVec wc)) : MemoryOf wc := Memory.ofListFrom 0 (ws.take c.nMax)

/-- Canonical form from index `lo` on: indices strictly rising, each in `lo .. n-1`, no word 0. -/
def Memory.wfFrom (n : Nat) : Nat → MemoryOf wc → Bool
  | _, [] => true
  | lo, (k, w) :: m => decide (lo ≤ k) && decide (k < n) && (w != 0#wc) && Memory.wfFrom n (k + 1) m

/-- The canonical form of a buffer with N_MAX cells. -/
def Memory.wf (c : Config) (m : MemoryOf wc) : Bool := Memory.wfFrom c.nMax 0 m

/-- Cells 0 .. d-1 in order: the words of a degree-d polynomial (00_scope.md R12). -/
def Memory.words (m : MemoryOf wc) (d : Nat) : List (BitVec wc) := (List.range d).map (Memory.read m)

/-! ## The registers a command writes -/

/-- RESULT as one 64-bit value (10_state.md R30). -/
def result (b : Block) : DWord := b.resultHi ++ b.resultLo

/-- `RESULT <- v` (10_state.md R30). -/
def setResult (v : DWord) (b : BlockOf wr wc ns) : BlockOf wr wc ns :=
  { b with resultHi := v.extractLsb' wr wr, resultLo := v.extractLsb' 0 wr }

/-- The S polynomial becomes the words `ws` with degree tag `d` and modulus tag `q`
(10_state.md R31, R32, R38). -/
def setS (c : Config) (d q : BitVec wr) (ws : List (BitVec wc))
    (b : BlockOf wr wc ns) : BlockOf wr wc ns :=
  { b with sCells := Memory.ofList c ws, sDeg := d, sMod := q }

/-- The U polynomial becomes the words `ws` with degree tag `d` and modulus tag `q`
(10_state.md R33, R34, R39). -/
def setU (c : Config) (d q : BitVec wr) (ws : List (BitVec wc))
    (b : BlockOf wr wc ns) : BlockOf wr wc ns :=
  { b with uCells := Memory.ofList c ws, uDeg := d, uMod := q }

/-! ## The error record and the end of an engine step -/

/-- The error record of 60_exceptions.md R203: ERR, ERRCODE, PHASE, and nothing else. This is the
block's whole exception entry: there is no vector, saved register or mode. There is no return from
it but a reset (R209; `softReset`, `hardReset`). -/
def raiseError (e : ErrCode) (b : BlockOf wr wc ns) : BlockOf wr wc ns :=
  { b with err := true, errCode := e, phase := .idle }

/-- The end of a command without an error: PHASE <- IDLE (30_encoding.md R84). -/
def finish (b : BlockOf wr wc ns) : BlockOf wr wc ns := { b with phase := .idle }

/-- A command's effect on the block: the block with the command's writes, or the error it raises.
An error discards every write of the command (60_exceptions.md R203). -/
abbrev EffectOf (wr wc ns : Nat) := Except ErrCode (BlockOf wr wc ns)

/-- A command's effect on the block of NTPS-1. -/
abbrev Effect := EffectOf 32 32 8

/-- The block after the engine step of a command with this effect on `b`. -/
def settle (b : BlockOf wr wc ns) : EffectOf wr wc ns → BlockOf wr wc ns
  | .ok b' => finish b'
  | .error e => raiseError e b

/-- One engine step of a command whose effect is `f` (00_scope.md R7): it always ends in a next
state, an error being one (60_exceptions.md R203), and leaves the environment alone. -/
def retire (f : Block → Effect) (s : State) : Host.Outcome State Fault Refusal :=
  .next { s with blk := settle s.blk (f s.blk) }

/-- The engine step of a word that is no command (30_encoding.md R85, 60_exceptions.md R207). -/
def illegalCommand (s : State) : Host.Outcome State Fault Refusal :=
  .next { s with blk := raiseError .illegalCommand s.blk }

/-! ## Reset -/

/-- The soft reset puts the block into the state of the hard reset; a BUSY command is cancelled
(70_reset_and_hazards.md R231, 60_exceptions.md R211). -/
def softReset (c : Config) (_ : BlockOf wr wc ns) : BlockOf wr wc ns := Block.reset c

/-- The hard reset input is asserted: the block answers nothing from here on. The spec gives the
block's values only for when reset ends; the model shows them already now (log entry 6). -/
def hardReset (c : Config) (s : State) : State :=
  { blk := Block.reset c, env := { s.env with inReset := true } }

/-- The hard reset input is released: the block holds its reset values and is ready
(70_reset_and_hazards.md R230, R233). -/
def releaseReset (c : Config) (s : State) : State :=
  { blk := Block.reset c, env := { s.env with inReset := false } }

end Sys2Proof.Machine
end

