-- ==== Sys2Proof/Machine/Operands.lean ====
section
/-! DEFINITION. How commands read their implicit operands (30_encoding.md R82): the coefficient maps
`lift` and `down` (41_conversion.md R120, R121), the polynomials held in S and U (00_scope.md R12),
the signed view of U (42_core.md R134) and the seed's bytes (10_state.md R29). -/

namespace Sys2Proof.Machine

variable {wr wc ns : Nat}

/-- `lift(a, q)`, on integers (41_conversion.md R120). -/
def liftCoeff (a q : Int) : Int := if 2 * a ≤ q then a else a - q

/-- `down(a, q)`, on integers (41_conversion.md R121). -/
def downCoeff (a q : Int) : Int := if 0 ≤ a then a else a + q

/-- The word LIFT stores for a U cell under modulus tag `q` (41_conversion.md R123). -/
def liftWord (q : BitVec wr) (u : BitVec wc) : BitVec wc :=
  BitVec.ofInt wc (liftCoeff u.toNat q.toNat)

/-- The word DOWN stores for an S cell under modulus tag `q` (41_conversion.md R124). -/
def downWord (q : BitVec wr) (v : BitVec wc) : BitVec wc :=
  BitVec.ofInt wc (downCoeff v.toInt q.toNat)

/-- The words of the S polynomial, cells 0 .. S_DEG-1 (00_scope.md R12). -/
def sWords (b : BlockOf wr wc ns) : List (BitVec wc) := Memory.words b.sCells b.sDeg.toNat

/-- The words of the U polynomial, cells 0 .. U_DEG-1 (00_scope.md R12). -/
def uWords (b : BlockOf wr wc ns) : List (BitVec wc) := Memory.words b.uCells b.uDeg.toNat

/-- The coefficients of the S polynomial (00_scope.md R12). -/
def sCoeffs (b : BlockOf wr wc ns) : List Int := (sWords b).map BitVec.toInt

/-- The signed view sv(0) .. sv(U_DEG-1) of the U polynomial (42_core.md R134). -/
def uCoeffs (b : BlockOf wr wc ns) : List Int := (uWords b).map fun u => (liftWord b.uMod u).toInt

/-- SEEDk; a seed register that a configuration does not have reads 0 (10_state.md R29). -/
def seedReg (seed : Vector (BitVec wr) ns) (k : Nat) : BitVec wr := seed[k]?.getD 0

/-- The seed with SEEDk set to `v` (10_state.md R29). -/
def setSeedReg (seed : Vector (BitVec wr) ns) (k : Nat) (v : BitVec wr) : Vector (BitVec wr) ns :=
  seed.setIfInBounds k v

/-- Seed byte `j`: with registers of 32 bits, bits 8(j mod 4) + 7 .. 8(j mod 4) of SEED(j div 4)
(10_state.md R29, 20_memory.md R65). -/
def seedByte (seed : Vector (BitVec wr) ns) (j : Nat) : Byte :=
  (seedReg seed (j / (wr / 8))).extractLsb' (8 * (j % (wr / 8))) 8

/-- The four bytes of a word, least significant first (20_memory.md R64, 30_encoding.md R89). -/
def wordOfBytes (b0 b1 b2 b3 : Byte) : Word := b3 ++ b2 ++ b1 ++ b0

/-- The eight key words of the seed: key word k is seed bytes 4k .. 4k+3 read little-endian
(43_keystream.md R151). In NTPS-1 it is SEEDk (`keyWords_ntps1`). -/
def keyWords (seed : Vector (BitVec wr) ns) : Vector Word 8 :=
  Vector.ofFn fun k => wordOfBytes (seedByte seed (4 * k.val)) (seedByte seed (4 * k.val + 1))
    (seedByte seed (4 * k.val + 2)) (seedByte seed (4 * k.val + 3))

end Sys2Proof.Machine
end

