-- ==== Sys2Proof/WellFormed.lean ====
section
/-! DEFINITION. What makes a command, a bus access and a script statement well formed. -/

namespace Sys2Proof

/-- Every command is well formed: a command has no operand field that could hold an illegal value
(30_encoding.md R82). Illegal command WORDS are refused by the decoder (R85). -/
abbrev Instr.WellFormed (_ : Instr) : Prop := True

/-- The offset is a multiple of a register's bytes, 4 (20_memory.md R62). -/
def Offset.aligned (c : Config) (off : Offset) : Bool := off.toNat % c.regBytes == 0

/-- The access is as wide as a bus data word, 32 bits (00_scope.md R8, 20_memory.md R62). -/
def Width.answered (c : Config) (w : Width) : Bool := w.bits == c.regWidth

/-- The offset lies in the 0x3000-byte window (20_memory.md R60). -/
def Offset.inWindow (off : Offset) : Bool := off.toNat < 0x3000

/-- The block answers this access: 32 bits wide, aligned, inside the window (20_memory.md R60, R62).
The reset line and the WAIT loop are always well formed. -/
def Input.wellFormed {wr : Nat} (c : Config) : InputOf wr → Bool
  | .read w off => w.answered c && off.aligned c && off.inWindow
  | .write w off _ => w.answered c && off.aligned c && off.inWindow
  | .wait => true
  | .resetAssert => true
  | .resetRelease => true

/-- A script value has a 32-bit field: an unsigned value below 2^32, or `-v` meaning `wrap32(-v)`
(30_encoding.md R86; the lower bound -2^31 is log entry 19). -/
def scriptValueFits (v : Int) : Bool := -2147483648 ≤ v && v < 4294967296

/-- A script statement has a bus transaction: its value fits, its cell exists (20_memory.md R63),
its seed is exactly 32 bytes (10_state.md R29). -/
def HostStmt.wellFormed (c : Config) : HostStmt → Bool
  | .wr _ v => scriptValueFits v
  | .wrS i v => decide (i < c.nMax) && scriptValueFits v
  | .wrU i v => decide (i < c.nMax) && scriptValueFits v
  | .rd _ => true
  | .rdS i => decide (i < c.nMax)
  | .rdU i => decide (i < c.nMax)
  | .cmd _ => true
  | .seed bytes => bytes.length == c.seedBytes
  | .rdResult => true
  | .run _ => true
  | .wait => true

end Sys2Proof
end

