-- ==== Sys2Proof/Machine/Bus.lean ====
section
/-! DEFINITION. The host's accesses to the register window (10_state.md R21 to R39, 20_memory.md,
70_reset_and_hazards.md R240, R241). -/

namespace Sys2Proof.Machine

variable {wr wc ns : Nat}

/-! ## The map -/

/-- The byte offset of a register (10_state.md R21). -/
def regOffset : Reg → Nat
  | .id => 0x000 | .hwcfg => 0x004 | .ctrl => 0x008 | .status => 0x00C
  | .cmd => 0x010 | .degree => 0x014 | .dlabel => 0x018
  | .seed k => 0x020 + 4 * k.val
  | .resultLo => 0x040 | .resultHi => 0x044
  | .sDeg => 0x048 | .sMod => 0x04C | .uDeg => 0x050 | .uMod => 0x054

/-- Every named register (10_state.md R21). -/
def allRegs : List Reg :=
  [.id, .hwcfg, .ctrl, .status, .cmd, .degree, .dlabel,
   .seed 0, .seed 1, .seed 2, .seed 3, .seed 4, .seed 5, .seed 6, .seed 7,
   .resultLo, .resultHi, .sDeg, .sMod, .uDeg, .uMod]

/-- What an aligned offset inside the window names (20_memory.md R60, R63, 10_state.md R37). -/
def targetAt (c : Config) (off : Nat) : Target :=
  if off < 0x1000 then
    match allRegs.find? fun r => regOffset r == off with
    | some r => .reg r
    | none => .reserved
  else if off < 0x2000 then
    if (off - 0x1000) / c.cellBytes < c.nMax then .sCell ((off - 0x1000) / c.cellBytes)
    else .reserved
  else if off < 0x3000 then
    if (off - 0x2000) / c.cellBytes < c.nMax then .uCell ((off - 0x2000) / c.cellBytes)
    else .reserved
  else .reserved

/-- The offset of S cell `i` (20_memory.md R63). -/
def sOffset (i : Nat) : Nat := 0x1000 + 4 * i

/-- The offset of U cell `i` (20_memory.md R63). -/
def uOffset (i : Nat) : Nat := 0x2000 + 4 * i

/-- The offset bits the block decodes of a bus address (20_memory.md R61). -/
def offsetOfAddress (addr : Nat) : Offset := BitVec.ofNat 14 addr

/-! ## Reads -/

/-- HWCFG: PARAMN in [31:16], NMAX in [15:0] (10_state.md R23). -/
def hwcfgWord (c : Config) : Word := BitVec.ofNat 16 c.paramN ++ BitVec.ofNat 16 c.nMax

/-- The value of a register as a read sees it (10_state.md R21 to R34). -/
def readReg (c : Config) (b : BlockOf wr wc ns) : Reg → BitVec wr
  | .id => BitVec.ofNat wr 0x4E545053
  | .hwcfg => (hwcfgWord c).setWidth wr
  | .ctrl => 0
  | .status => (statusWord b).setWidth wr
  | .cmd => 0
  | .degree => b.degree
  | .dlabel => b.dlabel
  | .seed k => seedReg b.seed k
  | .resultLo => b.resultLo
  | .resultHi => b.resultHi
  | .sDeg => b.sDeg
  | .sMod => b.sMod
  | .uDeg => b.uDeg
  | .uMod => b.uMod

/-- The value held at a target (10_state.md R21, R37, R38, R39). -/
def readTarget (c : Config) (b : BlockOf wr wc ns) : Target → BitVec wr
  | .reg r => readReg c b r
  | .sCell i => (Memory.read b.sCells i).setWidth wr
  | .uCell i => (Memory.read b.uCells i).setWidth wr
  | .reserved => 0

/-- What a read of the target returns is unspecified while BUSY (70_reset_and_hazards.md R240). -/
def unstableWhileBusy : Target → Bool
  | .reg .resultLo | .reg .resultHi | .reg .sDeg | .reg .sMod | .reg .uDeg | .reg .uMod => true
  | .reg _ => false
  | .sCell _ => true
  | .uCell _ => true
  | .reserved => false

/-- A read is a draw: the target is unstable and the block is BUSY (70_reset_and_hazards.md R240). -/
def readIsDraw (b : BlockOf wr wc ns) (t : Target) : Bool := busyBit b && unstableWhileBusy t

/-- The word the `n`-th draw or the register gives (70_reset_and_hazards.md R240, log entry 3). -/
def readValue (c : Config) (b : BlockOf wr wc ns) (n : Nat) (t : Target) : BitVec wr :=
  if readIsDraw b t then Config.freeRead wr n else readTarget c b t

/-- The byte of the window at offset `off`: lane off mod 4 of the 32-bit word there (20_memory.md
R64). -/
def windowByte (c : Config) (b : BlockOf wr wc ns) (off : Nat) : Byte :=
  (readTarget c b (targetAt c (off - off % c.regBytes))).extractLsb' (8 * (off % c.regBytes)) 8

/-! ## Writes -/

/-- A CMD write is accepted (10_state.md R26). -/
def acceptsCommand (b : BlockOf wr wc ns) : Bool := !busyBit b && !b.err

/-- A write of `v` to CMD: accepted, or dropped with HAZ set (10_state.md R26, hazards H1, H2). -/
def writeCmd (v : BitVec wr) (b : BlockOf wr wc ns) : BlockOf wr wc ns :=
  if acceptsCommand b then { b with phase := .busy, lcmd := v } else setHazard b

/-- A write whose storing is `f b`: dropped with HAZ set while BUSY (hazard H3,
70_reset_and_hazards.md R241, 10_state.md R35). -/
def writeIdle (f : BlockOf wr wc ns → BlockOf wr wc ns) (b : BlockOf wr wc ns) :
    BlockOf wr wc ns :=
  if busyBit b then setHazard b else f b

/-- A write to DEGREE, S_DEG or U_DEG: dropped with HAZ set while BUSY (H3) or when the value is
greater than N_MAX (hazard H4, 10_state.md R27, R31, R33). -/
def writeDegree (c : Config) (v : BitVec wr) (f : BlockOf wr wc ns → BlockOf wr wc ns) :
    BlockOf wr wc ns → BlockOf wr wc ns :=
  writeIdle fun b => if c.nMax < v.toNat then setHazard b else f b

/-- A write of `v` to a register (10_state.md R21 to R37). -/
def writeReg (c : Config) (v : BitVec wr) : Reg → BlockOf wr wc ns → BlockOf wr wc ns
  | .id => fun b => b
  | .hwcfg => fun b => b
  | .ctrl => fun b => if v.getLsbD 0 then softReset c b else b
  | .status => writeStatus v
  | .cmd => writeCmd v
  | .degree => writeDegree c v fun b => { b with degree := v }
  | .dlabel => writeIdle fun b => { b with dlabel := v }
  | .seed k => writeIdle fun b => { b with seed := setSeedReg b.seed k v }
  | .resultLo => fun b => b
  | .resultHi => fun b => b
  | .sDeg => writeDegree c v fun b => { b with sDeg := v }
  | .sMod => writeIdle fun b => { b with sMod := v }
  | .uDeg => writeDegree c v fun b => { b with uDeg := v }
  | .uMod => writeIdle fun b => { b with uMod := v }

/-- A write of `v` to a target (10_state.md R35, R37, R38, R39). -/
def writeTarget (c : Config) (v : BitVec wr) : Target → BlockOf wr wc ns → BlockOf wr wc ns
  | .reg r => writeReg c v r
  | .sCell i => writeIdle fun b => { b with sCells := Memory.write b.sCells i (v.setWidth wc) }
  | .uCell i => writeIdle fun b => { b with uCells := Memory.write b.uCells i (v.setWidth wc) }
  | .reserved => fun b => b

/-! ## One input -/

/-- The refusal of an access the block does not answer (20_memory.md R61, R62). -/
def refusalOf (c : Config) (w : Width) (off : Offset) : Option Refusal :=
  if !off.inWindow then some .outsideWindow
  else if !w.answered c || !off.aligned c then some .busErrorWidthOrAlignment
  else none

/-- Performing an input uses up one of the host's turns before the engine's step. -/
def takeTurn (e : EnvOf wr) : EnvOf wr := { e with hostTurns := e.hostTurns - 1 }

/-- The bus returns `v` to the host. -/
def reply (v : BitVec wr) (e : EnvOf wr) : EnvOf wr := { e with replies := v :: e.replies }

/-- An answered read: the block is unchanged (20_memory.md R66); a draw advances the counter. -/
def readInput (c : Config) (t : Target) (s : State) : State :=
  let e := reply (readValue c s.blk s.env.draws t) s.env
  { s with env := if readIsDraw s.blk t then { e with draws := e.draws + 1 } else e }

/-- An answered write. Accepting a command draws how many host turns come before its engine step
(20_memory.md R70, log entry 2). -/
def writeInput (c : Config) (t : Target) (v : Word) (s : State) : State :=
  { blk := writeTarget c v t s.blk
    env := if t = .reg .cmd ∧ acceptsCommand s.blk then
        { s.env with hostTurns := Config.freeHostTurns s.env.draws, draws := s.env.draws + 1 }
      else s.env }

/-- One pass of the WAIT loop: a read of STATUS, repeated while BUSY reads 1 (30_encoding.md R92). -/
def waitInput (c : Config) (s : State) : State :=
  readInput c (.reg .status)
    (if busyBit s.blk then { s with env := { s.env with inputs := .wait :: s.env.inputs } } else s)

/-- An access of the host, answered or refused (20_memory.md R62); a fault while the hard reset
input is asserted (70_reset_and_hazards.md R230, item I6). -/
def hostAccess (w : Width) (off : Offset) (act : Target → State → State) (s : State) :
    Host.Outcome State Fault Refusal :=
  if s.env.inReset then .fault .accessWhileInReset
  else match refusalOf Config.ntps1 w off with
    | some r => .refused r
    | none => .next (act (targetAt Config.ntps1 off.toNat) s)

/-- Perform one input, which has been taken off the list of inputs. -/
def perform (i : Input) (s : State) : Host.Outcome State Fault Refusal :=
  match i with
  | .read w off => hostAccess w off (readInput Config.ntps1) s
  | .write w off v => hostAccess w off (fun t => writeInput Config.ntps1 t v) s
  | .wait => if s.env.inReset then .fault .accessWhileInReset else .next (waitInput Config.ntps1 s)
  | .resetAssert => .next (hardReset Config.ntps1 s)
  | .resetRelease => .next (releaseReset Config.ntps1 s)

end Sys2Proof.Machine
end

