-- ==== Sys2Proof/Machine/Convert.lean ====
section
/-! DEFINITION. LIFT and DOWN (41_conversion.md R123, R124). -/

namespace Sys2Proof.Machine

variable {wr wc ns : Nat}

/-- LIFT: U to S, tags copied, U unchanged (41_conversion.md R123). -/
def lift (c : Config) (b : BlockOf wr wc ns) : EffectOf wr wc ns :=
  .ok (setS c b.uDeg b.uMod ((uWords b).map (liftWord b.uMod)) b)

/-- DOWN: S to U, tags copied, S unchanged (41_conversion.md R124). -/
def down (c : Config) (b : BlockOf wr wc ns) : EffectOf wr wc ns :=
  .ok (setU c b.sDeg b.sMod ((sWords b).map (downWord b.sMod)) b)

/-- LIFT -/
def execLift (s : State) : Host.Outcome State Fault Refusal := retire (lift Config.ntps1) s
/-- DOWN -/
def execDown (s : State) : Host.Outcome State Fault Refusal := retire (down Config.ntps1) s

end Sys2Proof.Machine
end

