-- ==== Sys2Proof/Machine/Params.lean ====
section
/-! DEFINITION. The parameter set queries PARAM.* (40_parameters.md). -/

namespace Sys2Proof.Machine

variable {wr wc ns : Nat}

/-- A value of the n = 701 instantiation: UNSUPPORTED_PARAMETER when PARAM_N is another number
(40_parameters.md R100, 60_exceptions.md R204). -/
def derivedParam (c : Config) (v : Nat) : Except ErrCode Nat :=
  if c.paramN ≠ 701 then .error .unsupportedParameter else .ok v

/-- `param_logq()` (40_parameters.md R100). -/
def paramLogqValue (c : Config) : Except ErrCode Nat := derivedParam c 13

/-- `param_q()` (40_parameters.md R100). -/
def paramQValue (c : Config) : Except ErrCode Nat := derivedParam c 8192

/-- A query that never fails: RESULT <- zext_64(v). -/
def answer (v : Nat) (b : BlockOf wr wc ns) : EffectOf wr wc ns := .ok (setResult (BitVec.ofNat 64 v) b)

/-- A query of a derived value: RESULT <- zext_64(v), or the error. -/
def answerDerived (v : Except ErrCode Nat) (b : BlockOf wr wc ns) : EffectOf wr wc ns :=
  match v with
  | .ok n => .ok (setResult (BitVec.ofNat 64 n) b)
  | .error e => .error e

/-- 40_parameters.md R101. -/
def paramN (c : Config) : BlockOf wr wc ns → EffectOf wr wc ns := answer c.paramN
/-- 40_parameters.md R102. -/
def paramK (_ : Config) : BlockOf wr wc ns → EffectOf wr wc ns := answer 2
/-- 40_parameters.md R103. -/
def paramSeedbits (_ : Config) : BlockOf wr wc ns → EffectOf wr wc ns := answer 256
/-- 40_parameters.md R104. -/
def paramCoinbits (_ : Config) : BlockOf wr wc ns → EffectOf wr wc ns := answer 256
/-- 40_parameters.md R105. -/
def paramSkeybits (_ : Config) : BlockOf wr wc ns → EffectOf wr wc ns := answer 256
/-- 40_parameters.md R106. -/
def paramLogq (c : Config) : BlockOf wr wc ns → EffectOf wr wc ns := answerDerived (paramLogqValue c)
/-- 40_parameters.md R107. -/
def paramQ (c : Config) : BlockOf wr wc ns → EffectOf wr wc ns := answerDerived (paramQValue c)
/-- 40_parameters.md R108. -/
def paramTritbits (c : Config) : BlockOf wr wc ns → EffectOf wr wc ns := answerDerived (derivedParam c 1120)
/-- 40_parameters.md R109. -/
def paramPkbits (c : Config) : BlockOf wr wc ns → EffectOf wr wc ns := answerDerived (derivedParam c 9100)
/-- 40_parameters.md R110. -/
def paramSkbits (c : Config) : BlockOf wr wc ns → EffectOf wr wc ns := answerDerived (derivedParam c 2240)
/-- 40_parameters.md R111. -/
def paramCtbits (c : Config) : BlockOf wr wc ns → EffectOf wr wc ns := answerDerived (derivedParam c 9100)

/-- PARAM.N -/
def execParamN (s : State) : Host.Outcome State Fault Refusal := retire (paramN Config.ntps1) s
/-- PARAM.K -/
def execParamK (s : State) : Host.Outcome State Fault Refusal := retire (paramK Config.ntps1) s
/-- PARAM.SEEDBITS -/
def execParamSeedbits (s : State) : Host.Outcome State Fault Refusal :=
  retire (paramSeedbits Config.ntps1) s
/-- PARAM.COINBITS -/
def execParamCoinbits (s : State) : Host.Outcome State Fault Refusal :=
  retire (paramCoinbits Config.ntps1) s
/-- PARAM.SKEYBITS -/
def execParamSkeybits (s : State) : Host.Outcome State Fault Refusal :=
  retire (paramSkeybits Config.ntps1) s
/-- PARAM.LOGQ -/
def execParamLogq (s : State) : Host.Outcome State Fault Refusal :=
  retire (paramLogq Config.ntps1) s
/-- PARAM.Q -/
def execParamQ (s : State) : Host.Outcome State Fault Refusal := retire (paramQ Config.ntps1) s
/-- PARAM.TRITBITS -/
def execParamTritbits (s : State) : Host.Outcome State Fault Refusal :=
  retire (paramTritbits Config.ntps1) s
/-- PARAM.PKBITS -/
def execParamPkbits (s : State) : Host.Outcome State Fault Refusal :=
  retire (paramPkbits Config.ntps1) s
/-- PARAM.SKBITS -/
def execParamSkbits (s : State) : Host.Outcome State Fault Refusal :=
  retire (paramSkbits Config.ntps1) s
/-- PARAM.CTBITS -/
def execParamCtbits (s : State) : Host.Outcome State Fault Refusal :=
  retire (paramCtbits Config.ntps1) s

end Sys2Proof.Machine
end

