-- ==== Sys2Proof/Machine/PolyCore.lean ====
section
/-! DEFINITION. The polynomial core: ZERO, INIT, ISTRI, HAMMING, NORM1, GATE (42_core.md). -/

namespace Sys2Proof.Machine

variable {wr wc ns : Nat}

/-! ## Construction -/

/-- ZERO.S: every cell 0, S_DEG <- DEGREE, S_MOD <- 0 (42_core.md R130). -/
def zeroS (c : Config) (b : BlockOf wr wc ns) : EffectOf wr wc ns := .ok (setS c b.degree 0 [] b)
/-- ZERO.U (42_core.md R131). -/
def zeroU (c : Config) (b : BlockOf wr wc ns) : EffectOf wr wc ns := .ok (setU c b.degree 0 [] b)
/-- INIT.S (42_core.md R132). -/
def initS (c : Config) (b : BlockOf wr wc ns) : EffectOf wr wc ns := .ok (setS c 0 0 [] b)
/-- INIT.U (42_core.md R133). -/
def initU (c : Config) (b : BlockOf wr wc ns) : EffectOf wr wc ns := .ok (setU c 0 0 [] b)

/-! ## Predicates and statistics of a coefficient sequence -/

/-- The coefficient lies in {-1, 0, 1} (42_core.md R135). -/
def trit (x : Int) : Bool := x == -1 || x == 0 || x == 1

/-- Every coefficient lies in {-1, 0, 1} (42_core.md R135, R136). -/
def isTrinary (cs : List Int) : Bool := cs.all trit

/-- The number of nonzero coefficients (42_core.md R137, R138). -/
def hamming (cs : List Int) : Nat := cs.countP fun x => x != 0

/-- The signed arithmetic sum of the coefficients (42_core.md R139, R140). -/
def normOne (cs : List Int) : Int := cs.sum

/-- ISTRI.S (42_core.md R135). -/
def istriS (_ : Config) (b : BlockOf wr wc ns) : EffectOf wr wc ns :=
  .ok (setResult (if isTrinary (sCoeffs b) then 1 else 0) b)
/-- ISTRI.U (42_core.md R136). -/
def istriU (_ : Config) (b : BlockOf wr wc ns) : EffectOf wr wc ns :=
  .ok (setResult (if isTrinary (uCoeffs b) then 1 else 0) b)
/-- HAMMING.S (42_core.md R137); a cell is nonzero exactly when its `sint32` is. -/
def hammingS (_ : Config) (b : BlockOf wr wc ns) : EffectOf wr wc ns :=
  .ok (setResult (BitVec.ofNat 64 (hamming (sCoeffs b))) b)
/-- HAMMING.U (42_core.md R138). -/
def hammingU (_ : Config) (b : BlockOf wr wc ns) : EffectOf wr wc ns :=
  .ok (setResult (BitVec.ofNat 64 (hamming (uCoeffs b))) b)
/-- NORM1.S (42_core.md R139). -/
def norm1S (_ : Config) (b : BlockOf wr wc ns) : EffectOf wr wc ns := .ok (setResult (wrap64 (normOne (sCoeffs b))) b)
/-- NORM1.U (42_core.md R140). -/
def norm1U (_ : Config) (b : BlockOf wr wc ns) : EffectOf wr wc ns := .ok (setResult (wrap64 (normOne (uCoeffs b))) b)

/-! ## The validity gate -/

/-- GATE.S: TRINARY_VIOLATION, or nothing written (42_core.md R141). -/
def gateS (_ : Config) (b : BlockOf wr wc ns) : EffectOf wr wc ns :=
  if isTrinary (sCoeffs b) then .ok b else .error .trinaryViolation
/-- GATE.U (42_core.md R142). -/
def gateU (_ : Config) (b : BlockOf wr wc ns) : EffectOf wr wc ns :=
  if isTrinary (uCoeffs b) then .ok b else .error .trinaryViolation

/-! ## The commands -/

/-- ZERO.S -/
def execZeroS (s : State) : Host.Outcome State Fault Refusal := retire (zeroS Config.ntps1) s
/-- ZERO.U -/
def execZeroU (s : State) : Host.Outcome State Fault Refusal := retire (zeroU Config.ntps1) s
/-- INIT.S -/
def execInitS (s : State) : Host.Outcome State Fault Refusal := retire (initS Config.ntps1) s
/-- INIT.U -/
def execInitU (s : State) : Host.Outcome State Fault Refusal := retire (initU Config.ntps1) s
/-- ISTRI.S -/
def execIstriS (s : State) : Host.Outcome State Fault Refusal := retire (istriS Config.ntps1) s
/-- ISTRI.U -/
def execIstriU (s : State) : Host.Outcome State Fault Refusal := retire (istriU Config.ntps1) s
/-- HAMMING.S -/
def execHammingS (s : State) : Host.Outcome State Fault Refusal :=
  retire (hammingS Config.ntps1) s
/-- HAMMING.U -/
def execHammingU (s : State) : Host.Outcome State Fault Refusal :=
  retire (hammingU Config.ntps1) s
/-- NORM1.S -/
def execNorm1S (s : State) : Host.Outcome State Fault Refusal := retire (norm1S Config.ntps1) s
/-- NORM1.U -/
def execNorm1U (s : State) : Host.Outcome State Fault Refusal := retire (norm1U Config.ntps1) s
/-- GATE.S -/
def execGateS (s : State) : Host.Outcome State Fault Refusal := retire (gateS Config.ntps1) s
/-- GATE.U -/
def execGateU (s : State) : Host.Outcome State Fault Refusal := retire (gateU Config.ntps1) s

end Sys2Proof.Machine
end

