-- ==== Sys2Proof/Machine/Keystream.lean ====
section
/-! DEFINITION. The deterministic keystream expander (43_keystream.md). Its state lives inside one
engine step (10_state.md R42), so it is a function of the seed and DLABEL does not enter (R157). -/

namespace Sys2Proof.Machine

/-- The sixteen state words x[0] .. x[15] (43_keystream.md R151). -/
abbrev ChaCha := Vector Word 16

/-- The initial state of block `n` (43_keystream.md R151). -/
def chachaInit (seed : Vector Word 8) (n : Nat) : ChaCha :=
  #v[0x61707865, 0x3320646E, 0x79622D32, 0x6B206574,
     seed[0], seed[1], seed[2], seed[3], seed[4], seed[5], seed[6], seed[7],
     BitVec.ofNat 32 (n % 2 ^ 32), BitVec.ofNat 32 (n / 2 ^ 32), 0, 0]

/-- One line of the quarter round: `x[a] <- x[a] + x[b]; x[d] <- rotl(x[d] XOR x[a], r)`
(43_keystream.md R152). -/
def quarterLine (a b d : Fin 16) (r : Nat) (x : ChaCha) : ChaCha :=
  let y := x.set a (x[a] + x[b])
  y.set d ((y[d] ^^^ y[a]).rotateLeft r)

/-- `QR(a, b, c, d)` (43_keystream.md R152). -/
def quarterRound (a b c d : Fin 16) (x : ChaCha) : ChaCha :=
  quarterLine c d b 7 (quarterLine a b d 8 (quarterLine c d b 12 (quarterLine a b d 16 x)))

/-- The column round (43_keystream.md R153). -/
def columnRound (x : ChaCha) : ChaCha :=
  quarterRound 3 7 11 15 (quarterRound 2 6 10 14 (quarterRound 1 5 9 13 (quarterRound 0 4 8 12 x)))

/-- The diagonal round (43_keystream.md R153). -/
def diagonalRound (x : ChaCha) : ChaCha :=
  quarterRound 3 4 9 14 (quarterRound 2 7 8 13 (quarterRound 1 6 11 12 (quarterRound 0 5 10 15 x)))

/-- `n` double rounds. -/
def doubleRounds : Nat → ChaCha → ChaCha
  | 0, x => x
  | n + 1, x => doubleRounds n (diagonalRound (columnRound x))

/-- `block(b)`: KS_ROUNDS / 2 double rounds, then the feed-forward addition (43_keystream.md R153). -/
def chachaBlock (c : Config) (seed : Vector Word 8) (n : Nat) : ChaCha :=
  Vector.zipWith (fun x y => x + y) (doubleRounds (c.ksRounds / 2) (chachaInit seed n))
    (chachaInit seed n)

/-- Keystream byte `p` (43_keystream.md R154). -/
def keystreamByte (c : Config) (seed : Vector Word 8) (p : Nat) : Byte :=
  ((chachaBlock c seed (p / 64)).toList.getD (p % 64 / 4) 0).extractLsb' (8 * (p % 4)) 8

/-- `KS(w)`: the lower-indexed output word is the low half (43_keystream.md R155). -/
def keystream (c : Config) (seed : Vector Word 8) (w : Nat) : DWord :=
  (chachaBlock c seed (w / 8)).toList.getD (2 * (w % 8) + 1) 0
    ++ (chachaBlock c seed (w / 8)).toList.getD (2 * (w % 8)) 0

end Sys2Proof.Machine
end

