-- ==== Sys2Proof/Machine/Sampler.lean ====
section
/-! DEFINITION. The trinary samplers T and T+ (44_sampler.md). -/

namespace Sys2Proof.Machine

variable {wr wc ns : Nat}

/-- The coefficient of pair `j` of a keystream word: W[2j+1] - W[2j] (44_sampler.md R170). -/
def pairCoeff (w : DWord) (j : Nat) : Int :=
  (w.getLsbD (2 * j + 1)).toInt - (w.getLsbD (2 * j)).toInt

/-- `Tvec(d)`: coefficients 0 .. d-3 from the keystream, the top two 0 (44_sampler.md R171). -/
def tVec (c : Config) (seed : Vector Word 8) (d : Nat) : List Int :=
  (List.range d).map fun i =>
    if i + 3 ≤ d then pairCoeff (keystream c seed (i / 32)) (i % 32) else 0

/-- The correlation sum t of a coefficient vector: i = 0 .. d-3 (44_sampler.md R173). -/
def corrSum (cs : List Int) : Int :=
  ((List.range (cs.length - 2)).map fun i => cs.getD i 0 * cs.getD (i + 1) 0).sum

/-- Every even-indexed coefficient negated (44_sampler.md R174). -/
def negateEven (cs : List Int) : List Int := cs.mapIdx fun i x => if i % 2 = 0 then -x else x

/-- T+ of a T vector: negate the even indices when t < 0 (44_sampler.md R174). -/
def canonicalize (cs : List Int) : List Int := if corrSum cs < 0 then negateEven cs else cs

/-- `TPvec(d)` (44_sampler.md R174). -/
def tpVec (c : Config) (seed : Vector Word 8) (d : Nat) : List Int := canonicalize (tVec c seed d)

/-- The checks every sampling command makes before its first write, in order: `param_q()`, then
DEGREE < 2 (44_sampler.md R175, 60_exceptions.md R202). The answer is q. -/
def samplerModulus (c : Config) (b : BlockOf wr wc ns) : Except ErrCode Nat :=
  match paramQValue c with
  | .error e => .error e
  | .ok q => if b.degree.toNat < 2 then .error .invalidDegree else .ok q

/-- A sampling command into S of the coefficient vector `cs` (44_sampler.md R175, R176). -/
def sampleIntoS (c : Config) (cs : BlockOf wr wc ns → List Int) (b : BlockOf wr wc ns) : EffectOf wr wc ns :=
  match samplerModulus c b with
  | .error e => .error e
  | .ok q => .ok (setS c b.degree (BitVec.ofNat wr q) ((cs b).map (BitVec.ofInt wc)) b)

/-- A sampling command into U: `down` of the same coefficients (44_sampler.md R177, R178). -/
def sampleIntoU (c : Config) (cs : BlockOf wr wc ns → List Int) (b : BlockOf wr wc ns) : EffectOf wr wc ns :=
  match samplerModulus c b with
  | .error e => .error e
  | .ok q => .ok (setU c b.degree (BitVec.ofNat wr q)
      ((cs b).map fun x => BitVec.ofInt wc (downCoeff x q)) b)

/-- The T vector of the block's seed and DEGREE. -/
def blockT (c : Config) (b : BlockOf wr wc ns) : List Int := tVec c (keyWords b.seed) b.degree.toNat

/-- The T+ vector of the block's seed and DEGREE. -/
def blockTP (c : Config) (b : BlockOf wr wc ns) : List Int := tpVec c (keyWords b.seed) b.degree.toNat

/-- SAMPLE_T (44_sampler.md R175). -/
def sampleT (c : Config) : BlockOf wr wc ns → EffectOf wr wc ns := sampleIntoS c (blockT c)
/-- SAMPLE_TP (44_sampler.md R176). -/
def sampleTP (c : Config) : BlockOf wr wc ns → EffectOf wr wc ns := sampleIntoS c (blockTP c)
/-- SAMPLE_T.U (44_sampler.md R177). -/
def sampleTU (c : Config) : BlockOf wr wc ns → EffectOf wr wc ns := sampleIntoU c (blockT c)
/-- SAMPLE_TP.U (44_sampler.md R178). -/
def sampleTPU (c : Config) : BlockOf wr wc ns → EffectOf wr wc ns := sampleIntoU c (blockTP c)

/-- SAMPLE_T -/
def execSampleT (s : State) : Host.Outcome State Fault Refusal := retire (sampleT Config.ntps1) s
/-- SAMPLE_TP -/
def execSampleTP (s : State) : Host.Outcome State Fault Refusal :=
  retire (sampleTP Config.ntps1) s
/-- SAMPLE_T.U -/
def execSampleTU (s : State) : Host.Outcome State Fault Refusal :=
  retire (sampleTU Config.ntps1) s
/-- SAMPLE_TP.U -/
def execSampleTPU (s : State) : Host.Outcome State Fault Refusal :=
  retire (sampleTPU Config.ntps1) s

end Sys2Proof.Machine
end

