-- ==== Sys2Proof/Machine/Uniform.lean ====
section
/-! DEFINITION. The uniform random generator UNIFORM (45_uniform.md). -/

namespace Sys2Proof.Machine

variable {wr wc ns : Nat}

/-- `Uvec(d, q)[i]`: 16-bit chunk i mod 4 of keystream word i div 4, masked (45_uniform.md R190). -/
def uniformCoeff (c : Config) (seed : Vector Word 8) (q i : Nat) : Nat :=
  (((keystream c seed (i / 4)).toNat >>> (16 * (i % 4))) &&& 0xFFFF) &&& (q - 1)

/-- `Uvec(d, q)` (45_uniform.md R190). -/
def uVec (c : Config) (seed : Vector Word 8) (d q : Nat) : List Nat :=
  (List.range d).map (uniformCoeff c seed q)

/-- The precondition: q is a power of two in 1 .. 2^16 (45_uniform.md R192). -/
def maskableModulus (q : Nat) : Bool := (List.range 17).any fun k => q == 2 ^ k

/-- UNIFORM once q is known (45_uniform.md R191). -/
def uniformAt (c : Config) (q : Nat) (b : BlockOf wr wc ns) : EffectOf wr wc ns :=
  if maskableModulus q then
    .ok (setU c b.degree (BitVec.ofNat wr q)
      ((uVec c (keyWords b.seed) b.degree.toNat q).map (BitVec.ofNat wc)) b)
  else .error .modulusNotPow2

/-- UNIFORM (45_uniform.md R191). -/
def uniform (c : Config) (b : BlockOf wr wc ns) : EffectOf wr wc ns :=
  match paramQValue c with
  | .error e => .error e
  | .ok q => uniformAt c q b

/-- UNIFORM -/
def execUniform (s : State) : Host.Outcome State Fault Refusal := retire (uniform Config.ntps1) s

end Sys2Proof.Machine
end

