-- ==== Sys2Proof/Machine/Dispatch.lean ====
section
/-! DEFINITION. The engine step's dispatch of a decoded command to its meaning (30_encoding.md R84). -/

namespace Sys2Proof.Machine

/-- The engine step of a decoded command (30_encoding.md R84). -/
def exec (i : Instr) (s : State) : Host.Outcome State Fault Refusal :=
  match i with
  | .zeroS => Sys2Proof.Machine.execZeroS s
  | .zeroU => Sys2Proof.Machine.execZeroU s
  | .initS => Sys2Proof.Machine.execInitS s
  | .initU => Sys2Proof.Machine.execInitU s
  | .lift => Sys2Proof.Machine.execLift s
  | .down => Sys2Proof.Machine.execDown s
  | .istriS => Sys2Proof.Machine.execIstriS s
  | .istriU => Sys2Proof.Machine.execIstriU s
  | .hammingS => Sys2Proof.Machine.execHammingS s
  | .hammingU => Sys2Proof.Machine.execHammingU s
  | .norm1S => Sys2Proof.Machine.execNorm1S s
  | .norm1U => Sys2Proof.Machine.execNorm1U s
  | .gateS => Sys2Proof.Machine.execGateS s
  | .gateU => Sys2Proof.Machine.execGateU s
  | .sampleT => Sys2Proof.Machine.execSampleT s
  | .sampleTP => Sys2Proof.Machine.execSampleTP s
  | .sampleTU => Sys2Proof.Machine.execSampleTU s
  | .sampleTPU => Sys2Proof.Machine.execSampleTPU s
  | .uniform => Sys2Proof.Machine.execUniform s
  | .paramN => Sys2Proof.Machine.execParamN s
  | .paramK => Sys2Proof.Machine.execParamK s
  | .paramSeedbits => Sys2Proof.Machine.execParamSeedbits s
  | .paramCoinbits => Sys2Proof.Machine.execParamCoinbits s
  | .paramSkeybits => Sys2Proof.Machine.execParamSkeybits s
  | .paramLogq => Sys2Proof.Machine.execParamLogq s
  | .paramQ => Sys2Proof.Machine.execParamQ s
  | .paramTritbits => Sys2Proof.Machine.execParamTritbits s
  | .paramPkbits => Sys2Proof.Machine.execParamPkbits s
  | .paramSkbits => Sys2Proof.Machine.execParamSkbits s
  | .paramCtbits => Sys2Proof.Machine.execParamCtbits s

end Sys2Proof.Machine
end

