-- ==== Sys2Proof/Machine/Step.lean ====
section
/-! DEFINITION. One step of the machine: the engine's step, one input, or nothing to do. -/

namespace Sys2Proof.Machine

/-- The engine's step comes next: PHASE = BUSY, no reset, and the host has used up the accesses it
performs before it, or has none left (20_memory.md R70, 70_reset_and_hazards.md R245, log entry 2). -/
def engineTurn (s : State) : Bool :=
  busyBit s.blk && !s.env.inReset && (s.env.hostTurns == 0 || s.env.inputs.isEmpty)

/-- The engine step: decode LCMD and perform it (30_encoding.md R84). -/
def engineStep (s : State) : Host.Outcome State Fault Refusal :=
  match decode s.blk.lcmd with
  | .ok i => exec i s
  | .error _ => illegalCommand s

/-- One step. With nothing to do the block keeps its state (60_exceptions.md R220, log entry 7). -/
def step (s : State) : Host.Outcome State Fault Refusal :=
  if engineTurn s then engineStep s
  else match s.env.inputs with
    | [] => .next s
    | i :: rest => perform i { s with env := takeTurn { s.env with inputs := rest } }

/-- The state in which the command word of `nbits` bits `w` has been accepted and its engine step is
the next step: LCMD holds the word, PHASE = BUSY, and nothing stands before the engine (log entry 1). -/
def State.withFetchWord (s : State) (nbits w : Nat) : State :=
  { blk := { s.blk with phase := .busy, lcmd := tableWord nbits w }
    env := { s.env with hostTurns := 0, inReset := false } }

end Sys2Proof.Machine
end

