-- ==== Sys2Proof/Machine/Effects.lean ====
section
/-! DEFINITION. Every command's effect on the block, for any configuration (00_scope.md R8, log
entry 9): what `exec` performs at `Config.ntps1` is proved equal to it in Laws/Effects.lean. -/

namespace Sys2Proof.Machine

variable {wr wc ns : Nat}

/-- The effect of a command under configuration `c`, on a block of any widths: the widths are
arguments of every command (00_scope.md R8). -/
def effect (c : Config) : Instr → BlockOf wr wc ns → EffectOf wr wc ns
  | .zeroS => zeroS c
  | .zeroU => zeroU c
  | .initS => initS c
  | .initU => initU c
  | .lift => lift c
  | .down => down c
  | .istriS => istriS c
  | .istriU => istriU c
  | .hammingS => hammingS c
  | .hammingU => hammingU c
  | .norm1S => norm1S c
  | .norm1U => norm1U c
  | .gateS => gateS c
  | .gateU => gateU c
  | .sampleT => sampleT c
  | .sampleTP => sampleTP c
  | .sampleTU => sampleTU c
  | .sampleTPU => sampleTPU c
  | .uniform => uniform c
  | .paramN => paramN c
  | .paramK => paramK c
  | .paramSeedbits => paramSeedbits c
  | .paramCoinbits => paramCoinbits c
  | .paramSkeybits => paramSkeybits c
  | .paramLogq => paramLogq c
  | .paramQ => paramQ c
  | .paramTritbits => paramTritbits c
  | .paramPkbits => paramPkbits c
  | .paramSkbits => paramSkbits c
  | .paramCtbits => paramCtbits c

/-- The effect of a command on the block of configuration `c`. -/
abbrev effectFor (c : Config) : Instr → BlockFor c → Except ErrCode (BlockFor c) := effect c

end Sys2Proof.Machine
end

