-- ==== Sys2Proof/Machine/Script.lean ====
section
/-! DEFINITION. The host script: every statement as the bus accesses it expands to
(30_encoding.md R86, R88 to R92). -/

namespace Sys2Proof.Machine

/-- A 32-bit write at an offset (30_encoding.md R86). -/
def busWrite (off : Nat) (v : Word) : Input := .write .w32 (BitVec.ofNat 14 off) v

/-- A 32-bit read at an offset (30_encoding.md R86). -/
def busRead (off : Nat) : Input := .read .w32 (BitVec.ofNat 14 off)

/-- `CMD <mnemonic>`: a write of the mnemonic's encoding to CMD (30_encoding.md R86). -/
def issue (n : CmdName) : Input := busWrite (regOffset .cmd) (encode (commandOf n))

/-- The seed word k of 32 seed bytes (30_encoding.md R89). -/
def seedWord (bytes : List Byte) (k : Nat) : Word :=
  wordOfBytes (bytes.getD (4 * k) 0) (bytes.getD (4 * k + 1) 0) (bytes.getD (4 * k + 2) 0)
    (bytes.getD (4 * k + 3) 0)

/-- The bus accesses of a statement, in order (30_encoding.md R86, R89 to R92). -/
def expand : HostStmt → List Input
  | .wr r v => [busWrite (regOffset r) (wrap32 v)]
  | .wrS i v => [busWrite (sOffset i) (wrap32 v)]
  | .wrU i v => [busWrite (uOffset i) (wrap32 v)]
  | .rd r => [busRead (regOffset r)]
  | .rdS i => [busRead (sOffset i)]
  | .rdU i => [busRead (uOffset i)]
  | .cmd n => [issue n]
  | .seed bytes => (List.finRange 8).map fun k => busWrite (regOffset (.seed k)) (seedWord bytes k)
  | .rdResult => [busRead (regOffset .resultLo), busRead (regOffset .resultHi)]
  | .run n => [issue n, .wait]
  | .wait => [.wait]

/-- The bus accesses of a host program (30_encoding.md R86): one statement after the other. -/
def expandProgram (p : List HostStmt) : List Input := p.flatMap expand

/-- The machine with a host program still to run: the host's accesses come from outside the block
(log entry 1). -/
def withProgram (p : List HostStmt) (s : State) : State :=
  { s with env := { s.env with inputs := s.env.inputs ++ expandProgram p } }

end Sys2Proof.Machine
end

