-- ==== Sys2Proof/Safety.lean ====
section
/-! DEFINITION. The end of a run (70_reset_and_hazards.md R247), safe runs, the legal states, and
the host's duty (R242). -/

namespace Sys2Proof.Safety

open Sys2Proof.Machine

/-- The run is over: the host has performed its last access and PHASE = IDLE
(70_reset_and_hazards.md R247). -/
def runOver (s : State) : Bool := s.env.inputs.isEmpty && !busyBit s.blk

/-- The run faulted: STATUS.ERR = 1 in its end state (70_reset_and_hazards.md R247). -/
def faulted (s : State) : Bool := s.blk.err

/-- A safe state: no error recorded and the host has not broken the protocol. -/
def Safe (s : State) : Prop := s.blk.err = false ∧ s.blk.haz = false

/-- The block's invariant. The degree registers are at most N_MAX (10_state.md R27, R31, R33), both
buffers are canonical (R38, R39), ERRCODE is 0 exactly while ERR = 0 (R25), and no command is BUSY
while ERR = 1 (60_exceptions.md R209, R210). -/
structure BlockInv (c : Config) (b : Block) : Prop where
  degree_le : b.degree.toNat ≤ c.nMax
  sDeg_le : b.sDeg.toNat ≤ c.nMax
  uDeg_le : b.uDeg.toNat ≤ c.nMax
  sCells_wf : Memory.wf c b.sCells = true
  uCells_wf : Memory.wf c b.uCells = true
  code_iff : b.errCode = .noError ↔ b.err = false
  busy_ok : b.phase = .busy → b.err = false

/-- The machine's invariant: the block's, and no command is BUSY while the reset input is asserted. -/
structure Inv (s : State) : Prop where
  blk : BlockInv Config.ntps1 s.blk
  reset_idle : s.env.inReset = true → s.blk.phase = .idle

/-- The access is one the host must not make while BUSY: a write of hazard H1 or H3, or a read of
70_reset_and_hazards.md R240 (R242). -/
def forbiddenWhileBusy : Input → Bool
  | .read _ off => unstableWhileBusy (targetAt Config.ntps1 off.toNat)
  | .write _ off _ =>
    match targetAt Config.ntps1 off.toNat with
    | .reg .id | .reg .hwcfg | .reg .ctrl | .reg .status | .reg .resultLo | .reg .resultHi => false
    | .reserved => false
    | .reg _ => true
    | .sCell _ => true
    | .uCell _ => true
  | .wait => false
  | .resetAssert => false
  | .resetRelease => false

/-- The input may leave a command BUSY: it is a write to CMD. -/
def startsCommand : Input → Bool
  | .write _ off _ => targetAt Config.ntps1 off.toNat == .reg .cmd
  | .read _ _ => false
  | .wait => false
  | .resetAssert => false
  | .resetRelease => false

/-- The input ends the time in which a command may be BUSY: a WAIT or an edge of the reset input. -/
def endsCommand : Input → Bool
  | .wait => true
  | .resetAssert => true
  | .resetRelease => true
  | .read _ _ => false
  | .write _ _ _ => false

/-- The host keeps its duty (70_reset_and_hazards.md R242) in the inputs to come, where
`outstanding` says that a command may be BUSY: after a CMD write it WAITs before any access that is
forbidden while BUSY. -/
def keepsDuty : Bool → List Input → Bool
  | _, [] => true
  | outstanding, i :: rest =>
    !(outstanding && forbiddenWhileBusy i)
      && keepsDuty ((outstanding && !endsCommand i) || startsCommand i) rest

/-- The host keeps its duty from this state on. -/
def DutyKept (s : State) : Prop := keepsDuty (busyBit s.blk) s.env.inputs = true

end Sys2Proof.Safety
end

