-- ==== Sys2Proof/Certificates/Slice0/Obligations.lean ====
section
/-! DEFINITION. The statements for the provers, each from the rules of spec/ its docstring names. -/

namespace Sys2Proof.Claims

open Sys2Proof Sys2Proof.Machine

/-! ## Words the statements share -/

/-- The command completes from `s` with the block `b`, the environment untouched, and `P b`. -/
def Completes (i : Instr) (s : State) (P : Block → Prop) : Prop :=
  ∃ b, exec i s = .next { s with blk := b } ∧ P b

/-- The command ends with the error record of 60_exceptions.md R203: ERR, ERRCODE and PHASE are
written and nothing else. -/
def Raises (i : Instr) (s : State) (e : ErrCode) : Prop :=
  exec i s = .next { s with blk := { s.blk with err := true, errCode := e, phase := .idle } }

/-- From `b` to `b'` only S_DEG, S_MOD, the S cells and PHASE (now IDLE) may have changed. -/
def OnlySChanged (b b' : Block) : Prop :=
  b' = { b with sDeg := b'.sDeg, sMod := b'.sMod, sCells := b'.sCells, phase := .idle }

/-- From `b` to `b'` only U_DEG, U_MOD, the U cells and PHASE (now IDLE) may have changed. -/
def OnlyUChanged (b b' : Block) : Prop :=
  b' = { b with uDeg := b'.uDeg, uMod := b'.uMod, uCells := b'.uCells, phase := .idle }

/-- From `b` to `b'` only RESULT and PHASE (now IDLE) may have changed. -/
def OnlyResultChanged (b b' : Block) : Prop :=
  b' = { b with resultLo := b'.resultLo, resultHi := b'.resultHi, phase := .idle }

/-- The state after a query that answers `v` (below 2^32). -/
def answered (s : State) (v : Nat) : State :=
  { s with blk := { s.blk with resultHi := 0, resultLo := BitVec.ofNat 32 v, phase := .idle } }

/-- Cell i of S as an integer. -/
def sInt (b : Block) (i : Nat) : Int := (Memory.read b.sCells i).toInt

/-- Cell i of U as an integer. -/
def uNat (b : Block) (i : Nat) : Nat := (Memory.read b.uCells i).toNat

/-- The lifted integer of U cell i under U_MOD (41_conversion.md R120). -/
def lifted (b : Block) (i : Nat) : Int :=
  if 2 * uNat b i ≤ b.uMod.toNat then (uNat b i : Int) else (uNat b i : Int) - b.uMod.toNat

/-- The signed view sv(i) of U (42_core.md R134). -/
def sv (b : Block) (i : Nat) : Int := (BitVec.ofInt 32 (lifted b i)).toInt

/-- `x` lies in {-1, 0, 1}. -/
abbrev IsTrit (x : Int) : Prop := x = -1 ∨ x = 0 ∨ x = 1

/-- Coefficient i of the T vector of the block's seed and DEGREE (44_sampler.md R170, R171). -/
def tCoeff (b : Block) (i : Nat) : Int :=
  if i + 3 ≤ b.degree.toNat then
    ((keystream Config.ntps1 b.seed (i / 32)).getLsbD (2 * (i % 32) + 1)).toInt
      - ((keystream Config.ntps1 b.seed (i / 32)).getLsbD (2 * (i % 32))).toInt
  else 0

/-- The correlation sum of the T vector (44_sampler.md R173). -/
def tSum (b : Block) : Int :=
  ∑ i ∈ Finset.range (b.degree.toNat - 2), tCoeff b i * tCoeff b (i + 1)

/-- Coefficient i of the T+ vector (44_sampler.md R174). -/
def tpCoeff (b : Block) (i : Nat) : Int :=
  if tSum b < 0 ∧ i % 2 = 0 then -tCoeff b i else tCoeff b i

/-- The unsigned form of a coefficient at q = 8192 (41_conversion.md R121). -/
def down8192 (x : Int) : Word := BitVec.ofInt 32 (if 0 ≤ x then x else x + 8192)

/-- The engine's step comes next: a command is BUSY, the reset input is released, and the host has
no further access to perform before it. -/
abbrev EngineNext (s : State) : Prop :=
  s.blk.phase = .busy ∧ s.env.inReset = false ∧ (s.env.hostTurns = 0 ∨ s.env.inputs = [])

/-- The input `i` is performed next, before any engine step. -/
abbrev HostNext (s : State) (i : Input) : Prop :=
  s.env.inReset = false ∧ (s.blk.phase = .idle ∨ s.env.hostTurns ≠ 0) ∧
    s.env.inputs.head? = some i

/-- The step performs the pending input and leaves the block `b`. -/
def Performs (s : State) (b : Block) : Prop :=
  ∃ t, step s = .next t ∧ t.blk = b ∧ t.env.inputs = s.env.inputs.tail ∧
    t.env.replies = s.env.replies ∧ t.env.inReset = s.env.inReset

/-- The offset is answered: a multiple of 4 inside the window (20_memory.md R60, R62). -/
abbrev Answered (off : Offset) : Prop := off.toNat % 4 = 0 ∧ off.toNat < 0x3000

/-- The offset of a register or cell of hazard H3 (70_reset_and_hazards.md R241). -/
abbrev StoredOffset (o : Nat) : Prop :=
  o = 0x014 ∨ o = 0x018 ∨ (0x020 ≤ o ∧ o ≤ 0x03C) ∨ (0x048 ≤ o ∧ o ≤ 0x054) ∨
    (0x1000 ≤ o ∧ o ≤ 0x1AF0) ∨ (0x2000 ≤ o ∧ o ≤ 0x2AF0)

/-- The offset of a register whose legal values are 0 .. N_MAX: DEGREE, S_DEG, U_DEG. -/
abbrev DegreeOffset (o : Nat) : Prop := o = 0x014 ∨ o = 0x048 ∨ o = 0x050

/-- A reserved offset (10_state.md R37). -/
abbrev ReservedOffset (o : Nat) : Prop :=
  o = 0x01C ∨ (0x058 ≤ o ∧ o < 0x1000) ∨ (0x1AF4 ≤ o ∧ o < 0x2000) ∨ (0x2AF4 ≤ o ∧ o < 0x3000)

/-- The offset of a read that is unspecified while BUSY: RESULT, the tags, the cells
(70_reset_and_hazards.md R240). -/
abbrev UnstableOffset (o : Nat) : Prop :=
  (0x040 ≤ o ∧ o ≤ 0x054) ∨ (0x1000 ≤ o ∧ o ≤ 0x1AF0) ∨ (0x2000 ≤ o ∧ o ≤ 0x2AF0)

/-- The word held at an offset of the window. -/
def held (b : Block) (o : Nat) : Word := readTarget Config.ntps1 b (targetAt Config.ntps1 o)

/-- The input resets the block: an edge of the hard reset input, or a write of CTRL with bit 0 = 1. -/
def IsReset (i : Input) : Prop :=
  i = .resetAssert ∨ i = .resetRelease ∨
    ∃ off v, i = .write .w32 off v ∧ off.toNat = 0x008 ∧ v.getLsbD 0 = true

/-- A command word that is not in the opcode map (30_encoding.md R85), by its fields. -/
abbrev Unlisted (v : Word) : Prop :=
  let op := v.toNat % 256
  let sel := v.toNat / 256 % 256
  v.toNat / 65536 ≠ 0 ∨
    (op = 0x00 ∨ (0x05 ≤ op ∧ op ≤ 0x07) ∨ (0x0A ≤ op ∧ op ≤ 0x0F) ∨ op = 0x16 ∨ op = 0x17 ∨
      (0x1A ≤ op ∧ op ≤ 0x1F) ∨ (0x24 ≤ op ∧ op ≤ 0x27) ∨ (0x29 ≤ op ∧ op ≤ 0x2F) ∨ 0x31 ≤ op) ∨
    (sel ≠ 0 ∧ op ≠ 0x30) ∨ (op = 0x30 ∧ 11 ≤ sel)

/-- The commands that may write S_DEG, S_MOD and the S cells (10_state.md R44). -/
def sWriters : List Instr := [.zeroS, .initS, .lift, .sampleT, .sampleTP]

/-- The commands that may write U_DEG, U_MOD and the U cells (10_state.md R44). -/
def uWriters : List Instr := [.zeroU, .initU, .down, .sampleTU, .sampleTPU, .uniform]

/-- The PARAM commands. -/
def paramCommands : List Instr :=
  [.paramN, .paramK, .paramSeedbits, .paramCoinbits, .paramSkeybits, .paramLogq, .paramQ,
   .paramTritbits, .paramPkbits, .paramSkbits, .paramCtbits]

/-- The commands that may write RESULT (10_state.md R30). -/
def resultWriters : List Instr :=
  [.istriS, .istriU, .hammingS, .hammingU, .norm1S, .norm1U] ++ paramCommands

/-- The commands of the S buffer that never touch U (10_state.md R40). -/
def sOnly : List Instr :=
  [.zeroS, .initS, .istriS, .hammingS, .norm1S, .gateS, .sampleT, .sampleTP]

/-- The commands of the U buffer that never touch S (10_state.md R40). -/
def uOnly : List Instr :=
  [.zeroU, .initU, .istriU, .hammingU, .norm1U, .gateU, .sampleTU, .sampleTPU, .uniform]

/-- The block with another S polynomial. -/
def withS (d q : Word) (m : Memory) (b : Block) : Block :=
  { b with sDeg := d, sMod := q, sCells := m }

/-- The block with another U polynomial. -/
def withU (d q : Word) (m : Memory) (b : Block) : Block :=
  { b with uDeg := d, uMod := q, uCells := m }

/-- The two blocks hold the same U polynomial. -/
def SameU (a b : Block) : Prop := a.uDeg = b.uDeg ∧ a.uMod = b.uMod ∧ a.uCells = b.uCells

/-- One column round and one diagonal round (43_keystream.md R153), each quarter round named. -/
def columnsThenDiagonals (x : ChaCha) : ChaCha :=
  let x := quarterRound 0 4 8 12 x
  let x := quarterRound 1 5 9 13 x
  let x := quarterRound 2 6 10 14 x
  let x := quarterRound 3 7 11 15 x
  let x := quarterRound 0 5 10 15 x
  let x := quarterRound 1 6 11 12 x
  let x := quarterRound 2 7 8 13 x
  quarterRound 3 4 9 14 x

/-- The opcode map of 30_encoding.md R83: encoding, mnemonic, command. -/
def opcodeMap : List (Word × String × Instr) :=
  [(0x00000001, "ZERO.S", .zeroS), (0x00000002, "ZERO.U", .zeroU),
   (0x00000003, "INIT.S", .initS), (0x00000004, "INIT.U", .initU),
   (0x00000008, "LIFT", .lift), (0x00000009, "DOWN", .down),
   (0x00000010, "ISTRI.S", .istriS), (0x00000011, "ISTRI.U", .istriU),
   (0x00000012, "HAMMING.S", .hammingS), (0x00000013, "HAMMING.U", .hammingU),
   (0x00000014, "NORM1.S", .norm1S), (0x00000015, "NORM1.U", .norm1U),
   (0x00000018, "GATE.S", .gateS), (0x00000019, "GATE.U", .gateU),
   (0x00000020, "SAMPLE_T", .sampleT), (0x00000021, "SAMPLE_TP", .sampleTP)] ++
  [(0x00000022, "SAMPLE_T.U", .sampleTU), (0x00000023, "SAMPLE_TP.U", .sampleTPU),
   (0x00000028, "UNIFORM", .uniform),
   (0x00000030, "PARAM.N", .paramN), (0x00000130, "PARAM.K", .paramK),
   (0x00000230, "PARAM.SEEDBITS", .paramSeedbits), (0x00000330, "PARAM.COINBITS", .paramCoinbits),
   (0x00000430, "PARAM.SKEYBITS", .paramSkeybits), (0x00000530, "PARAM.LOGQ", .paramLogq),
   (0x00000630, "PARAM.Q", .paramQ), (0x00000730, "PARAM.TRITBITS", .paramTritbits),
   (0x00000830, "PARAM.PKBITS", .paramPkbits), (0x00000930, "PARAM.SKBITS", .paramSkbits),
   (0x00000A30, "PARAM.CTBITS", .paramCtbits)]

end Sys2Proof.Claims

open Sys2Proof Sys2Proof.Machine Sys2Proof.Claims

/-! ## Encoding, decoding and the engine step -/

/-- Decode and encode agree in both directions: a word decodes to a command exactly when it is that
command's word (30_encoding.md sections 1 to 3). -/
def Obligations.DecodeGivesExactlyTheEncodedCommand : Prop :=
  ∀ (w : Word) (i : Instr), decode w = .ok i ↔ w = encode i

/-- The opcode map (30_encoding.md R83): every row's word decodes to its command, is its command's
encoding, and its mnemonic is the command's. -/
def Obligations.OpcodeMapWordsDecodeAsListed : Prop :=
  opcodeMap.length = 30 ∧
    ∀ row ∈ opcodeMap,
      decode row.1 = .ok row.2.2 ∧ encode row.2.2 = row.1 ∧ row.2.2.mnemonic = row.2.1

/-- The illegal words (30_encoding.md R85) are exactly the words of no command, and the engine step
of one records ILLEGAL_COMMAND and nothing else. -/
def Obligations.UnlistedWordsRaiseIllegalCommand : Prop :=
  errCodeBits .illegalCommand = 4 ∧ (∀ v : Word, Unlisted v ↔ ∀ i, v ≠ encode i) ∧
    ∀ s : State, EngineNext s → Unlisted s.blk.lcmd →
      step s = .next { s with
        blk := { s.blk with err := true, errCode := .illegalCommand, phase := .idle } }

/-- A step runs the decoded command (30_encoding.md R84): when the engine's step comes next, it is
`exec` of the command LCMD decodes to, and nothing is added around it. -/
def Obligations.StepRunsTheDecodedCommand : Prop :=
  ∀ (s : State) (i : Instr), EngineNext s → decode s.blk.lcmd = .ok i → step s = exec i s

/-- The aliases (30_encoding.md R88) assemble to exactly the commands they name. -/
def Obligations.AliasesAssembleToTheirCommands : Prop :=
  [CmdAlias.modS3S, .s3ToZxS, .modS3U, .s3ToZxU, .u2s, .s2u, .sampleTPlus, .sampleTPlusU].map
      (fun a => (a.spelling, commandOf (.byAlias a)))
    = [("MOD_S3.S", .gateS), ("S3_TO_ZX.S", .gateS), ("MOD_S3.U", .gateU), ("S3_TO_ZX.U", .gateU),
       ("U2S", .lift), ("S2U", .down), ("SAMPLE_T+", .sampleTP), ("SAMPLE_T+.U", .sampleTPU)]

/-- The script statements (30_encoding.md R86, R90, R91) expand to their bus accesses, at the offsets
of 10_state.md R21. -/
def Obligations.ScriptStatementsExpandToTheirAccesses : Prop :=
  allRegs.map regOffset
      = [0x000, 0x004, 0x008, 0x00C, 0x010, 0x014, 0x018, 0x020, 0x024, 0x028, 0x02C, 0x030, 0x034,
         0x038, 0x03C, 0x040, 0x044, 0x048, 0x04C, 0x050, 0x054] ∧
  (∀ (r : Reg) (v : Int),
      expand (.wr r v) = [.write .w32 (BitVec.ofNat 14 (regOffset r)) (BitVec.ofInt 32 v)]) ∧
  (∀ (i : Nat) (v : Int),
      expand (.wrS i v) = [.write .w32 (BitVec.ofNat 14 (0x1000 + 4 * i)) (BitVec.ofInt 32 v)] ∧
      expand (.wrU i v) = [.write .w32 (BitVec.ofNat 14 (0x2000 + 4 * i)) (BitVec.ofInt 32 v)]) ∧
  (∀ r : Reg, expand (.rd r) = [.read .w32 (BitVec.ofNat 14 (regOffset r))]) ∧
  (∀ i : Nat, expand (.rdS i) = [.read .w32 (BitVec.ofNat 14 (0x1000 + 4 * i))] ∧
      expand (.rdU i) = [.read .w32 (BitVec.ofNat 14 (0x2000 + 4 * i))]) ∧
  (∀ n : CmdName, expand (.cmd n) = [.write .w32 0x010 (encode (commandOf n))] ∧
      expand (.run n) = expand (.cmd n) ++ expand .wait) ∧
  expand .rdResult = expand (.rd .resultLo) ++ expand (.rd .resultHi)

/-- SEED loads the 32 bytes (30_encoding.md R89, 10_state.md R29): after its eight writes seed byte
j is the j-th byte given, and nothing else of the block has changed. -/
def Obligations.SeedStatementLoadsTheSeedBytes : Prop :=
  ∀ (s : State) (bytes : List Byte) (rest : List Input),
    bytes.length = 32 → s.blk.phase = .idle → s.env.inReset = false →
    s.env.inputs = expand (.seed bytes) ++ rest →
    ∃ t, Host.Core.run core 8 s = .next t ∧ t.env.inputs = rest ∧
      (∀ j, j < 32 → seedByte t.blk.seed j = bytes.getD j 0) ∧
      t.blk = { s.blk with seed := t.blk.seed }

/-! ## Parameter queries -/

/-- The queries that never fail (40_parameters.md R101 to R105), with what they leave unchanged. -/
def Obligations.FixedParameterQueriesAnswer : Prop :=
  [Instr.paramN, .paramK, .paramSeedbits, .paramCoinbits, .paramSkeybits].map encode
      = [0x00000030, 0x00000130, 0x00000230, 0x00000330, 0x00000430] ∧
  (∀ s : State,
    exec .paramN s = .next (answered s 701) ∧ exec .paramK s = .next (answered s 2) ∧
    exec .paramSeedbits s = .next (answered s 256) ∧
    exec .paramCoinbits s = .next (answered s 256) ∧
    exec .paramSkeybits s = .next (answered s 256)) ∧
  ∀ (c : Config) (b : BlockFor c),
    effect c .paramN b = .ok (setResult (BitVec.ofNat 64 c.paramN) b) ∧
    effect c .paramK b = .ok (setResult 2 b) ∧
    ∀ i ∈ [Instr.paramSeedbits, .paramCoinbits, .paramSkeybits],
      effect c i b = .ok (setResult 256 b)

/-- The queries of derived values (40_parameters.md R106 to R111): the literals on this hardware,
UNSUPPORTED_PARAMETER with RESULT unchanged under any other PARAM_N. -/
def Obligations.DerivedParameterQueriesFollowTheRingDegree : Prop :=
  [Instr.paramLogq, .paramQ, .paramTritbits, .paramPkbits, .paramSkbits, .paramCtbits].map encode
      = [0x00000530, 0x00000630, 0x00000730, 0x00000830, 0x00000930, 0x00000A30] ∧
  (∀ s : State,
    exec .paramLogq s = .next (answered s 13) ∧ exec .paramQ s = .next (answered s 8192) ∧
    exec .paramTritbits s = .next (answered s 1120) ∧
    exec .paramPkbits s = .next (answered s 9100) ∧
    exec .paramSkbits s = .next (answered s 2240) ∧
    exec .paramCtbits s = .next (answered s 9100)) ∧
  ∀ (c : Config) (b : BlockFor c), c.paramN ≠ 701 →
    ∀ i ∈ [Instr.paramLogq, .paramQ, .paramTritbits, .paramPkbits, .paramSkbits, .paramCtbits],
      settle b (effect c i b)
        = { b with err := true, errCode := .unsupportedParameter, phase := .idle }

/-- UNSUPPORTED_PARAMETER (60_exceptions.md R204) is raised by exactly the eleven commands that
query a derived value, exactly when PARAM_N is not 701, whatever the operands. -/
def Obligations.UnsupportedParameterIsRaisedByExactlyTheDerivedQueries : Prop :=
  errCodeBits .unsupportedParameter = 1 ∧
  ∀ (c : Config) (i : Instr) (b : BlockFor c),
    effect c i b = .error .unsupportedParameter ↔
      c.paramN ≠ 701 ∧ i ∈ [Instr.paramLogq, .paramQ, .paramTritbits, .paramPkbits, .paramSkbits,
        .paramCtbits, .sampleT, .sampleTP, .sampleTU, .sampleTPU, .uniform]

/-! ## Polynomial core -/

/-- ZERO.S and ZERO.U (42_core.md R130, R131): the zero polynomial of degree DEGREE, modulus 0, and
at DEGREE 0 the state of INIT. -/
def Obligations.ZeroBuildsTheZeroPolynomial : Prop :=
  encode .zeroS = 0x00000001 ∧ encode .zeroU = 0x00000002 ∧
  ∀ s : State,
    Completes .zeroS s (fun b => OnlySChanged s.blk b ∧ (∀ i, Memory.read b.sCells i = 0) ∧
      b.sDeg = s.blk.degree ∧ b.sMod = 0) ∧
    Completes .zeroU s (fun b => OnlyUChanged s.blk b ∧ (∀ i, Memory.read b.uCells i = 0) ∧
      b.uDeg = s.blk.degree ∧ b.uMod = 0) ∧
    (s.blk.degree = 0 → exec .zeroS s = exec .initS s ∧ exec .zeroU s = exec .initU s)

/-- INIT.S and INIT.U (42_core.md R132, R133): the empty polynomial, which every command accepts. -/
def Obligations.InitBuildsTheEmptyPolynomial : Prop :=
  encode .initS = 0x00000003 ∧ encode .initU = 0x00000004 ∧
  ∀ s : State,
    Completes .initS s (fun b => OnlySChanged s.blk b ∧ (∀ i, Memory.read b.sCells i = 0) ∧
      b.sDeg = 0 ∧ b.sMod = 0) ∧
    Completes .initU s (fun b => OnlyUChanged s.blk b ∧ (∀ i, Memory.read b.uCells i = 0) ∧
      b.uDeg = 0 ∧ b.uMod = 0) ∧
    (s.blk.sDeg = 0 →
      exec .istriS s = .next (answered s 1) ∧ exec .hammingS s = .next (answered s 0) ∧
      exec .norm1S s = .next (answered s 0) ∧
      exec .gateS s = .next { s with blk := { s.blk with phase := .idle } } ∧
      Completes .down s (fun b => OnlyUChanged s.blk b ∧ (∀ i, Memory.read b.uCells i = 0) ∧
        b.uDeg = 0 ∧ b.uMod = s.blk.sMod)) ∧
    (s.blk.uDeg = 0 →
      exec .istriU s = .next (answered s 1) ∧ exec .hammingU s = .next (answered s 0) ∧
      exec .norm1U s = .next (answered s 0) ∧
      exec .gateU s = .next { s with blk := { s.blk with phase := .idle } } ∧
      Completes .lift s (fun b => OnlySChanged s.blk b ∧ (∀ i, Memory.read b.sCells i = 0) ∧
        b.sDeg = 0 ∧ b.sMod = s.blk.uMod))

/-- ISTRI.S and ISTRI.U (42_core.md R135, R136), with their frame. -/
def Obligations.IstriTellsWhetherEveryCoefficientIsTrinary : Prop :=
  encode .istriS = 0x00000010 ∧ encode .istriU = 0x00000011 ∧
  ∀ s : State,
    Completes .istriS s (fun b => OnlyResultChanged s.blk b ∧
      ((∀ i, i < s.blk.sDeg.toNat → IsTrit (sInt s.blk i)) → result b = 1) ∧
      (¬ (∀ i, i < s.blk.sDeg.toNat → IsTrit (sInt s.blk i)) → result b = 0)) ∧
    Completes .istriU s (fun b => OnlyResultChanged s.blk b ∧
      ((∀ i, i < s.blk.uDeg.toNat → IsTrit (sv s.blk i)) → result b = 1) ∧
      (¬ (∀ i, i < s.blk.uDeg.toNat → IsTrit (sv s.blk i)) → result b = 0))

/-- HAMMING.S and HAMMING.U (42_core.md R137, R138), with their frame. -/
def Obligations.HammingCountsTheNonzeroCoefficients : Prop :=
  encode .hammingS = 0x00000012 ∧ encode .hammingU = 0x00000013 ∧
  ∀ s : State,
    Completes .hammingS s (fun b => OnlyResultChanged s.blk b ∧
      (result b).toNat = ((Finset.range s.blk.sDeg.toNat).filter
        fun i => Memory.read s.blk.sCells i ≠ 0).card) ∧
    Completes .hammingU s (fun b => OnlyResultChanged s.blk b ∧
      (result b).toNat = ((Finset.range s.blk.uDeg.toNat).filter fun i => sv s.blk i ≠ 0).card)

/-- NORM1.S and NORM1.U (42_core.md section 3): RESULT is the exact signed sum, and RESULT_HI of a
negative sum is all ones when the sum is at least -2^32 (R139 (d) for every sum: log entry 20). -/
def Obligations.NormOneIsTheExactSignedSum : Prop :=
  encode .norm1S = 0x00000014 ∧ encode .norm1U = 0x00000015 ∧
  ∀ s : State,
    Completes .norm1S s (fun b => OnlyResultChanged s.blk b ∧
      (result b).toInt = ∑ i ∈ Finset.range s.blk.sDeg.toNat, sInt s.blk i ∧
      (-4294967296 ≤ (result b).toInt → (result b).toInt < 0 → b.resultHi = 0xFFFFFFFF)) ∧
    Completes .norm1U s (fun b => OnlyResultChanged s.blk b ∧
      (result b).toInt = ∑ i ∈ Finset.range s.blk.uDeg.toNat, sv s.blk i)

/-- GATE.S and GATE.U (42_core.md R141, R142): a trinary polynomial passes with nothing written but
PHASE; any other raises TRINARY_VIOLATION. -/
def Obligations.GatePassesExactlyTheTrinaryPolynomials : Prop :=
  encode .gateS = 0x00000018 ∧ encode .gateU = 0x00000019 ∧ errCodeBits .trinaryViolation = 3 ∧
  ∀ s : State,
    ((∀ i, i < s.blk.sDeg.toNat → IsTrit (sInt s.blk i)) →
      exec .gateS s = .next { s with blk := { s.blk with phase := .idle } }) ∧
    (¬ (∀ i, i < s.blk.sDeg.toNat → IsTrit (sInt s.blk i)) →
      Raises .gateS s .trinaryViolation) ∧
    ((∀ i, i < s.blk.uDeg.toNat → IsTrit (sv s.blk i)) →
      exec .gateU s = .next { s with blk := { s.blk with phase := .idle } }) ∧
    (¬ (∀ i, i < s.blk.uDeg.toNat → IsTrit (sv s.blk i)) → Raises .gateU s .trinaryViolation)

/-- The statistics of U are those of S after LIFT (42_core.md R134): sv(i) is the value LIFT writes
into S cell i. -/
def Obligations.UnsignedStatisticsAreThoseOfTheLiftedPolynomial : Prop :=
  ∀ s a : State, s.blk.uDeg.toNat ≤ 701 → exec .lift s = .next a →
    (∀ i, i < s.blk.uDeg.toNat → sInt a.blk i = sv s.blk i) ∧
    ∀ p ∈ [(Instr.istriU, Instr.istriS), (.hammingU, .hammingS), (.norm1U, .norm1S)],
      ∃ t u, exec p.1 s = .next t ∧ exec p.2 a = .next u ∧ result t.blk = result u.blk

/-! ## Conversion -/

/-- LIFT (41_conversion.md R123): every S cell, both tags, and nothing else. -/
def Obligations.LiftWritesTheLiftedCells : Prop :=
  encode .lift = 0x00000008 ∧
  ∀ s : State, Completes .lift s (fun b => OnlySChanged s.blk b ∧
    (∀ i, i < 701 → Memory.read b.sCells i
      = if i < s.blk.uDeg.toNat then BitVec.ofInt 32 (lifted s.blk i) else 0) ∧
    b.sDeg = s.blk.uDeg ∧ b.sMod = s.blk.uMod)

/-- DOWN (41_conversion.md R124): every U cell, both tags, and nothing else. -/
def Obligations.DownWritesTheUnsignedCells : Prop :=
  encode .down = 0x00000009 ∧
  ∀ s : State, Completes .down s (fun b => OnlyUChanged s.blk b ∧
    (∀ i, i < 701 → Memory.read b.uCells i
      = if i < s.blk.sDeg.toNat then
          BitVec.ofInt 32 (if 0 ≤ sInt s.blk i then sInt s.blk i
            else sInt s.blk i + s.blk.sMod.toNat)
        else 0) ∧
    b.uDeg = s.blk.sDeg ∧ b.uMod = s.blk.sMod)

/-- The inverse law (41_conversion.md R122), on integers and through the 32-bit cells. -/
def Obligations.LiftAndDownAreInverse : Prop :=
  (∀ q : Int, 1 ≤ q → q < 4294967296 →
    (∀ u : Int, 0 ≤ u → u < q → downCoeff (liftCoeff u q) q = u ∧
      -q < 2 * liftCoeff u q ∧ 2 * liftCoeff u q ≤ q ∧
      -2147483648 ≤ liftCoeff u q ∧ liftCoeff u q < 2147483648) ∧
    (∀ v : Int, -q < 2 * v → 2 * v ≤ q → liftCoeff (downCoeff v q) q = v ∧
      0 ≤ downCoeff v q ∧ downCoeff v q < q)) ∧
  (∀ q u : Word, u.toNat < q.toNat → downWord q (liftWord q u) = u) ∧
  (∀ q v : Word, -(q.toNat : Int) < 2 * v.toInt → 2 * v.toInt ≤ q.toNat →
    liftWord q (downWord q v) = v) ∧
  (∀ a : Int, 0 ≤ a → liftCoeff a 0 = a) ∧ ∀ a : Int, downCoeff a 0 = a

/-- LIFT then DOWN gives an in-domain unsigned polynomial back, with its tags (41_conversion.md
sections 1 and 2; the source's round trip in 95_test_vectors.md W3). -/
def Obligations.LiftThenDownRestoresTheUnsignedPolynomial : Prop :=
  ∀ s a t : State,
    (∀ i, i < s.blk.uDeg.toNat → uNat s.blk i < s.blk.uMod.toNat) →
    exec .lift s = .next a → exec .down a = .next t →
    (∀ i, i < 701 → i < s.blk.uDeg.toNat →
      Memory.read t.blk.uCells i = Memory.read s.blk.uCells i) ∧
    t.blk.uDeg = s.blk.uDeg ∧ t.blk.uMod = s.blk.uMod

/-- DOWN then LIFT gives an in-domain signed polynomial back, with its tags (41_conversion.md
sections 1 and 2; the source's round trip in 95_test_vectors.md W3). -/
def Obligations.DownThenLiftRestoresTheSignedPolynomial : Prop :=
  ∀ s a t : State,
    (∀ i, i < s.blk.sDeg.toNat →
      -(s.blk.sMod.toNat : Int) < 2 * sInt s.blk i ∧ 2 * sInt s.blk i ≤ s.blk.sMod.toNat) →
    exec .down s = .next a → exec .lift a = .next t →
    (∀ i, i < 701 → i < s.blk.sDeg.toNat →
      Memory.read t.blk.sCells i = Memory.read s.blk.sCells i) ∧
    t.blk.sDeg = s.blk.sDeg ∧ t.blk.sMod = s.blk.sMod

/-! ## Keystream -/

/-- The quarter round (43_keystream.md R152) on four different words of the state. -/
def Obligations.QuarterRoundMixesItsFourWords : Prop :=
  ∀ (a b c d : Fin 16) (x : ChaCha), [a, b, c, d].Nodup →
    let a1 := x[a] + x[b]
    let d1 := (x[d] ^^^ a1).rotateLeft 16
    let c1 := x[c] + d1
    let b1 := (x[b] ^^^ c1).rotateLeft 12
    let a2 := a1 + b1
    let d2 := (d1 ^^^ a2).rotateLeft 8
    let c2 := c1 + d2
    let b2 := (b1 ^^^ c2).rotateLeft 7
    let y := quarterRound a b c d x
    y[a] = a2 ∧ y[b] = b2 ∧ y[c] = c2 ∧ y[d] = d2 ∧
      ∀ k : Fin 16, k ∉ [a, b, c, d] → y[k] = x[k]

/-- The keystream's blocks (43_keystream.md R151, R153), for every seed and block number: the sixteen
initial words, and the block function with its feed-forward. The construction itself is the spec's
from general knowledge (log entry 14). -/
def Obligations.KeystreamBlocksMixTheSeedAndTheCounter : Prop :=
  (∀ (seed : Vector Word 8) (n : Nat),
    let x := chachaInit seed n
    x[0] = 0x61707865 ∧ x[1] = 0x3320646E ∧ x[2] = 0x79622D32 ∧ x[3] = 0x6B206574 ∧
    (∀ k : Fin 8, x[4 + k.val] = seed[k]) ∧
    x[12].toNat = n % 2 ^ 32 ∧ (n < 2 ^ 64 → x[13].toNat = n / 2 ^ 32) ∧
    x[14] = 0 ∧ x[15] = 0) ∧
  ∀ (c : Config) (seed : Vector Word 8) (n : Nat) (m : Fin 16),
    ((chachaBlock c seed n)[m]).toNat
      = (((columnsThenDiagonals^[c.ksRounds / 2] (chachaInit seed n))[m]).toNat
          + ((chachaInit seed n)[m]).toNat) % 2 ^ 32

/-- Keystream words are consecutive output words, the lower-indexed one low (43_keystream.md R155),
and equally the keystream's bytes read little-endian (R154). -/
def Obligations.KeystreamWordsAreTheBytesLittleEndian : Prop :=
  ∀ (c : Config) (seed : Vector Word 8) (w : Nat),
    keystream c seed w
      = (chachaBlock c seed (w / 8)).toList.getD (2 * (w % 8) + 1) 0
        ++ (chachaBlock c seed (w / 8)).toList.getD (2 * (w % 8)) 0 ∧
    ∀ j, j < 8 → (keystream c seed w).extractLsb' (8 * j) 8 = keystreamByte c seed (8 * w + j)

/-- The published vector of the all-zero seed (43_keystream.md R160). -/
def Obligations.ZeroSeedKeystreamIsThePublishedVector : Prop :=
  (chachaBlock Config.ntps1 (Vector.replicate 8 0) 0).toList.take 4
      = [0xADE0B876, 0x903DF1A0, 0xE56A5D40, 0x28BD8653] ∧
  keystream Config.ntps1 (Vector.replicate 8 0) 0 = 0x903DF1A0ADE0B876 ∧
  keystream Config.ntps1 (Vector.replicate 8 0) 1 = 0x28BD8653E56A5D40 ∧
  (List.range 64).map (keystreamByte Config.ntps1 (Vector.replicate 8 0))
    = [0x76, 0xb8, 0xe0, 0xad, 0xa0, 0xf1, 0x3d, 0x90, 0x40, 0x5d, 0x6a, 0xe5, 0x53, 0x86, 0xbd,
       0x28, 0xbd, 0xd2, 0x19, 0xb8, 0xa0, 0x8d, 0xed, 0x1a, 0xa8, 0x36, 0xef, 0xcc, 0x8b, 0x77,
       0x0d, 0xc7] ++
      [0xda, 0x41, 0x59, 0x7c, 0x51, 0x57, 0x48, 0x8d, 0x77, 0x24, 0xe0, 0x3f, 0xb8, 0xd8, 0x4a,
       0x37, 0x6a, 0x43, 0xb8, 0xf4, 0x15, 0x18, 0xa1, 0x1c, 0xc3, 0x87, 0xb6, 0x69, 0xb2, 0xee,
       0x65, 0x86]

/-- The label is inert (43_keystream.md R157, 10_state.md R28): with another DLABEL every command
ends in the same state but for that DLABEL. -/
def Obligations.DomainLabelReachesNoResult : Prop :=
  ∀ (i : Instr) (s t : State) (v : Word), exec i s = .next t →
    exec i { s with blk := { s.blk with dlabel := v } }
      = .next { t with blk := { t.blk with dlabel := v } }

/-! ## Samplers -/

/-- SAMPLE_T (44_sampler.md R175, with R170 and R171): the T vector into S when DEGREE >= 2,
INVALID_DEGREE below, UNSUPPORTED_PARAMETER first under another PARAM_N. -/
def Obligations.SampleTWritesTheTVector : Prop :=
  encode .sampleT = 0x00000020 ∧ errCodeBits .invalidDegree = 2 ∧
  (∀ s : State, 2 ≤ s.blk.degree.toNat →
    Completes .sampleT s (fun b => OnlySChanged s.blk b ∧
      (∀ i, i < 701 → Memory.read b.sCells i
        = if i < s.blk.degree.toNat then BitVec.ofInt 32 (tCoeff s.blk i) else 0) ∧
      b.sDeg = s.blk.degree ∧ b.sMod = 8192)) ∧
  (∀ s : State, s.blk.degree.toNat < 2 → Raises .sampleT s .invalidDegree) ∧
  ∀ (c : Config) (b : BlockFor c), c.paramN ≠ 701 → effect c .sampleT b = .error .unsupportedParameter

/-- SAMPLE_TP (44_sampler.md R176, with R173 and R174): as SAMPLE_T, with the even indices negated
when the correlation sum is negative. -/
def Obligations.SampleTPWritesTheTPlusVector : Prop :=
  encode .sampleTP = 0x00000021 ∧ errCodeBits .invalidDegree = 2 ∧
  (∀ s : State, 2 ≤ s.blk.degree.toNat →
    Completes .sampleTP s (fun b => OnlySChanged s.blk b ∧
      (∀ i, i < 701 → Memory.read b.sCells i
        = if i < s.blk.degree.toNat then BitVec.ofInt 32 (tpCoeff s.blk i) else 0) ∧
      b.sDeg = s.blk.degree ∧ b.sMod = 8192)) ∧
  (∀ s : State, s.blk.degree.toNat < 2 → Raises .sampleTP s .invalidDegree) ∧
  ∀ (c : Config) (b : BlockFor c), c.paramN ≠ 701 → effect c .sampleTP b = .error .unsupportedParameter

/-- SAMPLE_T.U and SAMPLE_TP.U (44_sampler.md R177, R178): `down` of the same coefficients into U. -/
def Obligations.SamplersIntoUnsignedWriteTheDownedVectors : Prop :=
  encode .sampleTU = 0x00000022 ∧ encode .sampleTPU = 0x00000023 ∧ errCodeBits .invalidDegree = 2 ∧
  (∀ s : State, 2 ≤ s.blk.degree.toNat →
    Completes .sampleTU s (fun b => OnlyUChanged s.blk b ∧
      (∀ i, i < 701 → Memory.read b.uCells i
        = if i < s.blk.degree.toNat then down8192 (tCoeff s.blk i) else 0) ∧
      b.uDeg = s.blk.degree ∧ b.uMod = 8192) ∧
    Completes .sampleTPU s (fun b => OnlyUChanged s.blk b ∧
      (∀ i, i < 701 → Memory.read b.uCells i
        = if i < s.blk.degree.toNat then down8192 (tpCoeff s.blk i) else 0) ∧
      b.uDeg = s.blk.degree ∧ b.uMod = 8192)) ∧
  (∀ s : State, s.blk.degree.toNat < 2 →
    Raises .sampleTU s .invalidDegree ∧ Raises .sampleTPU s .invalidDegree) ∧
  ∀ (c : Config) (b : BlockFor c), c.paramN ≠ 701 →
    effect c .sampleTU b = .error .unsupportedParameter ∧
    effect c .sampleTPU b = .error .unsupportedParameter

/-- A sample into U equals the sample into S followed by DOWN, except that S is not written
(44_sampler.md section 3). -/
def Obligations.SampleIntoUnsignedEqualsSampleThenDown : Prop :=
  ∀ p ∈ [(Instr.sampleTU, Instr.sampleT), (.sampleTPU, .sampleTP)],
    ∀ s : State, 2 ≤ s.blk.degree.toNat →
      ∃ t a u, exec p.1 s = .next t ∧ exec p.2 s = .next a ∧ exec .down a = .next u ∧
        SameU t.blk u.blk

/-- The correlation sum of a T vector (44_sampler.md R173): its formula, its last product, its value
at d = 2 and its bound. -/
def Obligations.CorrelationSumOfATVector : Prop :=
  ∀ (c : Config) (seed : Vector Word 8) (d : Nat), 2 ≤ d →
    corrSum (tVec c seed d)
      = (∑ i ∈ Finset.range (d - 2),
          (tVec c seed d).getD i 0 * (tVec c seed d).getD (i + 1) 0) ∧
    (3 ≤ d → (tVec c seed d).getD (d - 3) 0 * (tVec c seed d).getD (d - 2) 0 = 0) ∧
    (d = 2 → corrSum (tVec c seed d) = 0) ∧
    |corrSum (tVec c seed d)| ≤ d - 2

/-- The T+ negation turns t into its absolute value and keeps the top two coefficients 0
(44_sampler.md section 2). -/
def Obligations.TPlusHasTheAbsoluteCorrelation : Prop :=
  (∀ cs : List Int, corrSum (canonicalize cs) = |corrSum cs|) ∧
  ∀ (c : Config) (seed : Vector Word 8) (d : Nat), 2 ≤ d →
    (tpVec c seed d).length = d ∧ (tpVec c seed d).getD (d - 2) 0 = 0 ∧
      (tpVec c seed d).getD (d - 1) 0 = 0 ∧
      (0 ≤ corrSum (tVec c seed d) → tpVec c seed d = tVec c seed d)

/-- The sampled polynomials (44_sampler.md R179): trinary, top two coefficients 0, a function of the
seed and the degree alone; T+ has t >= 0; the gate and the trinary test accept the .U forms. -/
def Obligations.SampledPolynomialsAreTrinaryWithZeroTop : Prop :=
  ∀ s : State, 2 ≤ s.blk.degree.toNat → s.blk.degree.toNat ≤ 701 →
    (∀ i ∈ [Instr.sampleT, .sampleTP], ∃ t, exec i s = .next t ∧
      (∀ k, k < s.blk.degree.toNat → IsTrit (sInt t.blk k)) ∧
      sInt t.blk (s.blk.degree.toNat - 2) = 0 ∧ sInt t.blk (s.blk.degree.toNat - 1) = 0 ∧
      (∀ s' t' : State, s'.blk.seed = s.blk.seed → s'.blk.degree = s.blk.degree →
        exec i s' = .next t' → t'.blk.sCells = t.blk.sCells ∧ t'.blk.sDeg = t.blk.sDeg ∧
          t'.blk.sMod = t.blk.sMod)) ∧
    (∀ t, exec .sampleTP s = .next t →
      0 ≤ ∑ k ∈ Finset.range (s.blk.degree.toNat - 2), sInt t.blk k * sInt t.blk (k + 1)) ∧
    (∀ i ∈ [Instr.sampleTU, .sampleTPU], ∃ t, exec i s = .next t ∧
      exec .gateU t = .next t ∧ exec .istriU t = .next (answered t 1))

/-- INVALID_DEGREE (60_exceptions.md section 2): the four samplers raise it exactly when DEGREE < 2
on this hardware, and no other command ever raises it. -/
def Obligations.InvalidDegreeIsRaisedByExactlyTheSamplers : Prop :=
  ∀ (i : Instr) (b : Block), effect Config.ntps1 i b = .error .invalidDegree ↔
    b.degree.toNat < 2 ∧ i ∈ [Instr.sampleT, .sampleTP, .sampleTU, .sampleTPU]

/-! ## Uniform generator -/

/-- UNIFORM (45_uniform.md R190, R191): the masked chunks into U, for every DEGREE; its errors. -/
def Obligations.UniformWritesTheMaskedChunks : Prop :=
  encode .uniform = 0x00000028 ∧ errCodeBits .modulusNotPow2 = 5 ∧
  (∀ s : State, Completes .uniform s (fun b => OnlyUChanged s.blk b ∧
    (∀ i, i < 701 → Memory.read b.uCells i
      = if i < s.blk.degree.toNat then
          BitVec.ofNat 32 ((((keystream Config.ntps1 s.blk.seed (i / 4)).toNat >>> (16 * (i % 4)))
            &&& 0xFFFF) &&& 8191)
        else 0) ∧
    (∀ i, i < 701 → uNat b i < 8192) ∧
    b.uDeg = s.blk.degree ∧ b.uMod = 8192)) ∧
  (∀ (c : Config) (b : BlockFor c), c.paramN ≠ 701 →
    effect c .uniform b = .error .unsupportedParameter) ∧
  ∀ (c : Config) (b : BlockFor c), effect c .uniform b ≠ .error .modulusNotPow2

/-- UNIFORM's precondition check (45_uniform.md R192): a q that is no power of two up to 2^16 ends
the command with MODULUS_NOT_POW2 and no U write, and every other q passes. -/
def Obligations.ModulusCheckAcceptsExactlyThePowersOfTwo : Prop :=
  ∀ (c : Config) (q : Nat) (b : BlockFor c),
    ((¬ ∃ k, k ≤ 16 ∧ q = 2 ^ k) → settle b (uniformAt c q b)
      = { b with err := true, errCode := .modulusNotPow2, phase := .idle }) ∧
    ((∃ k, k ≤ 16 ∧ q = 2 ^ k) → ∃ b', uniformAt c q b = .ok b')

/-! ## Errors and frames of every command -/

/-- The error record is precise (60_exceptions.md R203): a command that raises an error writes ERR,
ERRCODE and PHASE and nothing else; every other command leaves ERR and ERRCODE alone. -/
def Obligations.ErrorRecordIsTheWholeEffectOfAnError : Prop :=
  ∀ (i : Instr) (s t : State), exec i s = .next t →
    (∃ e, effect Config.ntps1 i s.blk = .error e ∧ e ≠ .noError ∧
      t = { s with blk := { s.blk with err := true, errCode := e, phase := .idle } }) ∨
    (∃ b, effect Config.ntps1 i s.blk = .ok b ∧ t.blk.err = s.blk.err ∧
      t.blk.errCode = s.blk.errCode ∧ t.blk.phase = .idle)

/-- Which commands write which state (10_state.md section 6, sections 3 and 5): registers, tags,
cells and, through the bus, every byte of the coefficient windows. -/
def Obligations.CommandsWriteOnlyTheirOwnState : Prop :=
  ∀ (i : Instr) (s t : State), exec i s = .next t →
    t.env = s.env ∧ t.blk.phase = .idle ∧ t.blk.lcmd = s.blk.lcmd ∧ t.blk.haz = s.blk.haz ∧
    t.blk.degree = s.blk.degree ∧ t.blk.dlabel = s.blk.dlabel ∧ t.blk.seed = s.blk.seed ∧
    (i ∉ resultWriters → t.blk.resultLo = s.blk.resultLo ∧ t.blk.resultHi = s.blk.resultHi) ∧
    (i ∉ sWriters → t.blk.sDeg = s.blk.sDeg ∧ t.blk.sMod = s.blk.sMod ∧
      ∀ off, 0x1000 ≤ off → off < 0x2000 →
        windowByte Config.ntps1 t.blk off = windowByte Config.ntps1 s.blk off) ∧
    (i ∉ uWriters → t.blk.uDeg = s.blk.uDeg ∧ t.blk.uMod = s.blk.uMod ∧
      ∀ off, 0x2000 ≤ off → off < 0x3000 →
        windowByte Config.ntps1 t.blk off = windowByte Config.ntps1 s.blk off)

/-- Each buffer is exclusively owned (10_state.md R40): a command of one buffer neither reads nor
writes the other, LIFT leaves U and DOWN leaves S unchanged. -/
def Obligations.BufferCommandsKeepToTheirOwnBuffer : Prop :=
  (∀ i ∈ sOnly, ∀ (s t : State) (d q : Word) (m : Memory), exec i s = .next t →
    exec i { s with blk := withU d q m s.blk } = .next { t with blk := withU d q m t.blk }) ∧
  (∀ i ∈ uOnly, ∀ (s t : State) (d q : Word) (m : Memory), exec i s = .next t →
    exec i { s with blk := withS d q m s.blk } = .next { t with blk := withS d q m t.blk }) ∧
  (∀ i ∈ paramCommands, ∀ (s t : State) (d q d' q' : Word) (m m' : Memory), exec i s = .next t →
    exec i { s with blk := withS d q m (withU d' q' m' s.blk) }
      = .next { t with blk := withS d q m (withU d' q' m' t.blk) }) ∧
  (∀ s t : State, exec .lift s = .next t → SameU t.blk s.blk) ∧
  ∀ s t : State, exec .down s = .next t →
    t.blk.sDeg = s.blk.sDeg ∧ t.blk.sMod = s.blk.sMod ∧ t.blk.sCells = s.blk.sCells

/-- An error stays until a reset (60_exceptions.md R210): while ERR = 1 no command runs, and a step
keeps ERR and ERRCODE unless its input is a reset. -/
def Obligations.ErrorStaysUntilReset : Prop :=
  ∀ s t : State, Safety.Inv s → s.blk.err = true → step s = .next t →
    engineTurn s = false ∧
      ((t.blk.err = true ∧ t.blk.errCode = s.blk.errCode) ∨
        ∃ i, s.env.inputs.head? = some i ∧ IsReset i)

/-! ## Host accesses -/

/-- What each offset of the register map holds (10_state.md R21), in any state of the block. -/
def Obligations.EachRegisterIsHeldAtItsOffset : Prop :=
  ∀ b : Block,
    held b 0x000 = 0x4E545053 ∧ held b 0x004 = 0x02BD02BD ∧ held b 0x008 = 0 ∧
    held b 0x00C = statusWord b ∧ held b 0x010 = 0 ∧ held b 0x014 = b.degree ∧
    held b 0x018 = b.dlabel ∧ (∀ k : Fin 8, held b (0x020 + 4 * k.val) = b.seed[k]) ∧
    held b 0x040 = b.resultLo ∧ held b 0x044 = b.resultHi ∧ held b 0x048 = b.sDeg ∧
    held b 0x04C = b.sMod ∧ held b 0x050 = b.uDeg ∧ held b 0x054 = b.uMod ∧
    (∀ i, i < 701 → held b (0x1000 + 4 * i) = Memory.read b.sCells i) ∧
    (∀ i, i < 701 → held b (0x2000 + 4 * i) = Memory.read b.uCells i) ∧
    ∀ o, o % 4 = 0 → ReservedOffset o → held b o = 0

/-- STATUS (10_state.md R25): its fields, and what a write of it does, BUSY or not. -/
def Obligations.StatusFieldsAndWrites : Prop :=
  (∀ b : Block,
    (statusWord b).getLsbD 0 = (b.phase == .busy) ∧ (statusWord b).getLsbD 1 = b.err ∧
    (statusWord b).getLsbD 2 = b.haz ∧ (statusWord b).getLsbD 3 = false ∧
    (statusWord b).extractLsb' 4 4 = errCodeBits b.errCode ∧
    ∀ k, 8 ≤ k → (statusWord b).getLsbD k = false) ∧
  ∀ (s : State) (off : Offset) (v : Word), HostNext s (.write .w32 off v) → off.toNat = 0x00C →
    (v.getLsbD 2 = true → Performs s { s.blk with haz := false }) ∧
    (v.getLsbD 2 = false → Performs s s.blk)

/-- Reads (70_reset_and_hazards.md R240, 20_memory.md R66): a read changes nothing of the block and
returns one word, which is the word held unless the block is BUSY and the offset is one of RESULT,
the tags or the cells; then it is any word. -/
def Obligations.ReadsReturnTheHeldWordAndChangeNothing : Prop :=
  ∀ (s : State) (off : Offset), HostNext s (.read .w32 off) → Answered off →
    ∃ t v, step s = .next t ∧ t.blk = s.blk ∧ t.env.replies = v :: s.env.replies ∧
      t.env.inputs = s.env.inputs.tail ∧
      (s.blk.phase = .idle ∨ ¬ UnstableOffset off.toNat → v = held s.blk off.toNat) ∧
      (off.toNat = 0x008 ∨ off.toNat = 0x010 → v = 0)

/-- CMD (10_state.md R26): accepted when BUSY = 0 and ERR = 0, whatever the word; dropped with HAZ
set otherwise; reads 0. -/
def Obligations.CommandWriteIsAcceptedWhenIdleAndNoError : Prop :=
  (∀ (s : State) (off : Offset) (v : Word), HostNext s (.write .w32 off v) → off.toNat = 0x010 →
    (s.blk.phase = .idle ∧ s.blk.err = false →
      Performs s { s.blk with phase := .busy, lcmd := v }) ∧
    (¬ (s.blk.phase = .idle ∧ s.blk.err = false) → Performs s { s.blk with haz := true })) ∧
  ∀ b : Block, held b 0x010 = 0

/-- The hazards H1 to H4 (70_reset_and_hazards.md R241): the access is dropped and sets HAZ, which
stays set until STATUS is written with bit 2 = 1 or a reset occurs. -/
def Obligations.HazardousWritesAreDroppedAndRecorded : Prop :=
  (∀ (s : State) (off : Offset) (v : Word), HostNext s (.write .w32 off v) → off.toNat % 4 = 0 →
    (off.toNat = 0x010 ∧ s.blk.phase = .busy) ∨
    (off.toNat = 0x010 ∧ s.blk.err = true) ∨
    (StoredOffset off.toNat ∧ s.blk.phase = .busy) ∨
    (DegreeOffset off.toNat ∧ 701 < v.toNat) →
      Performs s { s.blk with haz := true }) ∧
  ∀ s t : State, s.blk.haz = true → step s = .next t →
    t.blk.haz = true ∨ ∃ i, s.env.inputs.head? = some i ∧
      (IsReset i ∨ ∃ off v, i = .write .w32 off v ∧ off.toNat = 0x00C ∧ v.getLsbD 2 = true)

/-- An accepted write stores its value and changes no other word of the window (10_state.md
sections 3 to 5, also while ERR = 1). -/
def Obligations.AcceptedWritesStoreTheirValueAndNothingElse : Prop :=
  ∀ (s : State) (off : Offset) (v : Word), HostNext s (.write .w32 off v) → off.toNat % 4 = 0 →
    StoredOffset off.toNat → s.blk.phase = .idle → (DegreeOffset off.toNat → v.toNat ≤ 701) →
    Memory.wf Config.ntps1 s.blk.sCells = true → Memory.wf Config.ntps1 s.blk.uCells = true →
    ∃ b, Performs s b ∧ held b off.toNat = v ∧
      (∀ o, o % 4 = 0 → o ≠ off.toNat → held b o = held s.blk o) ∧
      b.phase = .idle ∧ b.lcmd = s.blk.lcmd

/-- Writes to ID, HWCFG, RESULT and the reserved offsets are ignored, with no hazard, BUSY or not
(10_state.md sections 2, 3 and 4). -/
def Obligations.ReadOnlyAndReservedOffsetsIgnoreWrites : Prop :=
  ∀ (s : State) (off : Offset) (v : Word), HostNext s (.write .w32 off v) → off.toNat % 4 = 0 →
    off.toNat = 0x000 ∨ off.toNat = 0x004 ∨ off.toNat = 0x040 ∨ off.toNat = 0x044 ∨
      ReservedOffset off.toNat →
    Performs s s.blk

/-- An access that is not 32 bits wide or not aligned is refused (20_memory.md R62), one outside the
window too, whatever its width (R61, item I4; that outsideWindow is then the name given is the model's:
log entry 5); the refusal carries no next state. -/
def Obligations.OtherAccessesAreRefused : Prop :=
  ∀ (s : State) (w : Width) (off : Offset) (v : Word),
    HostNext s (.read w off) ∨ HostNext s (.write w off v) →
    (off.toNat < 0x3000 → w ≠ .w32 ∨ off.toNat % 4 ≠ 0 →
      step s = .refused .busErrorWidthOrAlignment) ∧
    (0x3000 ≤ off.toNat → step s = .refused .outsideWindow)

/-- The window's bytes are little-endian lanes of its words (20_memory.md section 2), and the offset
bits the block decodes of a bus address are the offset from BASE (section 1). -/
def Obligations.WindowBytesAreLittleEndianLanes : Prop :=
  (∀ (b : Block) (o k : Nat), o % 4 = 0 → k < 4 →
    windowByte Config.ntps1 b (o + k) = (held b o).extractLsb' (8 * k) 8) ∧
  ∀ o, o < 0x4000 → (offsetOfAddress (Config.base + o)).toNat = o

/-- The operands a command reads at its step are those it was accepted with (20_memory.md R73):
while BUSY, a step that is not the engine's changes nothing of the block but HAZ, unless it resets
the block; LCMD is kept. -/
def Obligations.OperandsAreKeptWhileBusy : Prop :=
  ∀ s t : State, s.blk.phase = .busy → engineTurn s = false → step s = .next t →
    (∃ h, t.blk = { s.blk with haz := h }) ∨
      ∃ i, s.env.inputs.head? = some i ∧ IsReset i

/-! ## Reset -/

/-- The reset values (70_reset_and_hazards.md R232): both buffers in the init state, DEGREE = 701,
the seed, DLABEL and RESULT 0, STATUS 0. -/
def Obligations.ResetValuesAreThoseOfTheMap : Prop :=
  State.reset.blk.sDeg = 0 ∧ State.reset.blk.sMod = 0 ∧ State.reset.blk.uDeg = 0 ∧
  State.reset.blk.uMod = 0 ∧ (∀ i, Memory.read State.reset.blk.sCells i = 0) ∧
  (∀ i, Memory.read State.reset.blk.uCells i = 0) ∧ State.reset.blk.degree = 701 ∧
  (∀ j, j < 32 → seedByte State.reset.blk.seed j = 0) ∧ State.reset.blk.dlabel = 0 ∧
  result State.reset.blk = 0 ∧ statusWord State.reset.blk = 0 ∧
  State.reset.blk.phase = .idle ∧ State.reset.blk.lcmd = 0

/-- The soft reset (70_reset_and_hazards.md R231, 10_state.md R24): a write of CTRL with bit 0 = 1
puts the block into exactly the reset state, BUSY or in error; with bit 0 = 0 it does nothing. -/
def Obligations.SoftResetRestoresTheResetState : Prop :=
  ∀ (s : State) (off : Offset) (v : Word), HostNext s (.write .w32 off v) → off.toNat = 0x008 →
    (v.getLsbD 0 = true → Performs s State.reset.blk) ∧ (v.getLsbD 0 = false → Performs s s.blk)

/-- The hard reset (70_reset_and_hazards.md R230): while the input is asserted an access is not
answered (the machine is stuck), and when it is released the block holds its reset values. -/
def Obligations.HardResetAnswersNothingAndEndsInTheResetState : Prop :=
  (∀ (s : State) (i : Input) (rest : List Input), s.env.inReset = true →
    s.env.inputs = i :: rest →
    ((∃ w off, i = .read w off) ∨ (∃ w off v, i = .write w off v) ∨ i = .wait →
      step s = .fault .accessWhileInReset) ∧
    (i = .resetRelease → ∃ t, step s = .next t ∧ t.blk = State.reset.blk ∧
      t.env.inReset = false ∧ t.env.inputs = rest)) ∧
  ∀ s : State, HostNext s .resetAssert → ∃ t, step s = .next t ∧ t.env.inReset = true ∧
    t.env.inputs = s.env.inputs.tail

/-! ## The whole machine -/

/-- The invariant holds at reset. -/
def Obligations.ResetMeetsTheInvariant : Prop := Safety.Inv State.reset

/-- Every step keeps the invariant (10_state.md sections 2 to 5, 60_exceptions.md section 3): degree
registers at most N_MAX, canonical buffers, ERRCODE 0 exactly while ERR = 0, no command BUSY while
ERR = 1. From every state that meets it, not only from reachable ones. -/
def Obligations.EveryStepKeepsTheInvariant : Prop :=
  ∀ s t : State, Safety.Inv s → step s = .next t → Safety.Inv t

/-- A host that keeps its duty (70_reset_and_hazards.md R242) goes on keeping it, never causes a
hazard H1 or H3, and never reads an unspecified value. A hazard set by a step is then H2 or H4. -/
def Obligations.DutifulHostCausesNoBusyHazardAndReadsNoDraw : Prop :=
  ∀ s t : State, Safety.DutyKept s → step s = .next t →
    Safety.DutyKept t ∧
    (t.blk.haz = true → s.blk.haz = true ∨
      ∃ off v, s.env.inputs.head? = some (.write .w32 off v) ∧ s.blk.phase = .idle ∧
        ((off.toNat = 0x010 ∧ s.blk.err = true) ∨ (DegreeOffset off.toNat ∧ 701 < v.toNat))) ∧
    ∀ off, engineTurn s = false → s.env.inputs.head? = some (.read .w32 off) →
      t.env.replies = held s.blk off.toNat :: s.env.replies

/-- WAIT ends after the engine step (30_encoding.md R92, 20_memory.md section 5): from a BUSY block,
the polls of the host's remaining turns read BUSY = 1, then the engine steps, then one read of
BUSY = 0 ends the loop. The number of turns is log entry 2, the recorded words log entry 13. -/
def Obligations.WaitEndsAfterTheEngineStep : Prop :=
  ∀ (s : State) (rest : List Input), s.blk.phase = .busy → s.env.inReset = false →
    s.env.inputs = .wait :: rest →
    ∃ u t, engineStep s = .next u ∧ Host.Core.run core (s.env.hostTurns + 2) s = .next t ∧
      t.blk = u.blk ∧ u.blk.phase = .idle ∧ t.env.inputs = rest ∧
      t.env.replies = statusWord u.blk ::
        (List.replicate s.env.hostTurns (statusWord s.blk) ++ s.env.replies)

/-- RUN performs its command (30_encoding.md section 5, 70_reset_and_hazards.md section 4): from an
idle block with no error, after finitely many steps the command has had its engine step on the
operands it was accepted with, and the host goes on behind the WAIT (log entry 2). -/
def Obligations.RunStatementPerformsItsCommand : Prop :=
  ∀ (s : State) (n : CmdName) (rest : List Input), s.blk.phase = .idle → s.blk.err = false →
    s.env.inReset = false → s.env.inputs = expand (.run n) ++ rest →
    ∃ k t u, Host.Core.run core k s = .next t ∧
      exec (commandOf n)
          { s with blk := { s.blk with phase := .busy, lcmd := encode (commandOf n) } } = .next u ∧
      t.blk = u.blk ∧ t.blk.phase = .idle ∧ t.env.inputs = rest
end

