-- ==== Sys2Proof/Laws/State.lean ====
section
/-! SUPPORT. One lemma per field per named update of the block and the environment. -/

namespace Sys2Proof.Machine

variable {wr wc ns : Nat}

/-! ## Widths -/

theorem nMax_ntps1 : Config.ntps1.nMax = 701 := rfl
theorem paramN_ntps1 : Config.ntps1.paramN = 701 := rfl
@[simp] theorem regBytes_ntps1 : Config.ntps1.regBytes = 4 := rfl
@[simp] theorem cellBytes_ntps1 : Config.ntps1.cellBytes = 4 := rfl
@[simp] theorem seedBytes_ntps1 : Config.ntps1.seedBytes = 32 := rfl

/-- The block of NTPS-1 is the block of its configuration (00_scope.md R8). -/
theorem block_eq_blockFor : Block = BlockFor Config.ntps1 := rfl

/-- A block of registers of 32 bits holds SEEDk in its k-th seed register. -/
@[simp] theorem seedReg_ntps1 (seed : Vector Word 8) (k : Fin 8) : seedReg seed k = seed[k] := by
  simp [seedReg]

@[simp] theorem setSeedReg_ntps1 (seed : Vector Word 8) (k : Fin 8) (v : Word) :
    setSeedReg seed k v = seed.set k v := by
  apply Vector.ext
  intro i hi
  simp [setSeedReg, Vector.getElem_setIfInBounds, Vector.getElem_set]

/-- A word is its four bytes, the least significant first. -/
theorem wordOfBytes_bytes (w : Word) :
    wordOfBytes (w.extractLsb' 0 8) (w.extractLsb' 8 8) (w.extractLsb' 16 8) (w.extractLsb' 24 8)
      = w := by
  apply BitVec.eq_of_getLsbD_eq
  intro i hi
  simp only [wordOfBytes, BitVec.getLsbD_append, BitVec.getLsbD_extractLsb']
  split_ifs with h1 h2 h3
  · simp [h1]
  · have : i - 8 < 8 := by omega
    simp [this, show 8 + (i - 8) = i by omega]
  · have : i - 8 - 8 < 8 := by omega
    simp [this, show 16 + (i - 8 - 8) = i by omega]
  · have : i - 8 - 8 - 8 < 8 := by omega
    simp [this, show 24 + (i - 8 - 8 - 8) = i by omega]

/-- In NTPS-1 the key words are the SEED registers (43_keystream.md R151). -/
@[simp] theorem keyWords_ntps1 (seed : Vector Word 8) : keyWords seed = seed := by
  apply Vector.ext
  intro i hi
  have h := wordOfBytes_bytes seed[i]
  have e0 : 4 * i / (32 / 8) = i := by omega
  have e1 : (4 * i + 1) / (32 / 8) = i := by omega
  have e2 : (4 * i + 2) / (32 / 8) = i := by omega
  have e3 : (4 * i + 3) / (32 / 8) = i := by omega
  have m0 : 4 * i % (32 / 8) = 0 := by omega
  have m1 : (4 * i + 1) % (32 / 8) = 1 := by omega
  have m2 : (4 * i + 2) % (32 / 8) = 2 := by omega
  have m3 : (4 * i + 3) % (32 / 8) = 3 := by omega
  simpa only [keyWords, Vector.getElem_ofFn, seedByte, seedReg, e0, e1, e2, e3, m0, m1, m2, m3,
    Vector.getElem?_eq_getElem hi, Option.getD_some] using h

/-! ## What a target of NTPS-1 holds -/

@[simp] theorem readReg_status (c : Config) (b : Block) : readReg c b .status = statusWord b :=
  BitVec.setWidth_eq _

@[simp] theorem readReg_hwcfg (c : Config) (b : Block) : readReg c b .hwcfg = hwcfgWord c :=
  BitVec.setWidth_eq _

@[simp] theorem readReg_seed (c : Config) (b : Block) (k : Fin 8) :
    readReg c b (.seed k) = b.seed[k] := seedReg_ntps1 _ _

@[simp] theorem readTarget_sCell (c : Config) (b : Block) (i : Nat) :
    readTarget c b (.sCell i) = Memory.read b.sCells i := BitVec.setWidth_eq _

@[simp] theorem readTarget_uCell (c : Config) (b : Block) (i : Nat) :
    readTarget c b (.uCell i) = Memory.read b.uCells i := BitVec.setWidth_eq _

/-! ## setResult -/

@[simp] theorem setResult_degree (v : DWord) (b : BlockOf wr wc ns) : (setResult v b).degree = b.degree := rfl
@[simp] theorem setResult_dlabel (v : DWord) (b : BlockOf wr wc ns) : (setResult v b).dlabel = b.dlabel := rfl
@[simp] theorem setResult_seed (v : DWord) (b : BlockOf wr wc ns) : (setResult v b).seed = b.seed := rfl
@[simp] theorem setResult_resultLo (v : DWord) (b : BlockOf wr wc ns) : (setResult v b).resultLo = v.extractLsb' 0 wr := rfl
@[simp] theorem setResult_resultHi (v : DWord) (b : BlockOf wr wc ns) : (setResult v b).resultHi = v.extractLsb' wr wr := rfl
@[simp] theorem setResult_sDeg (v : DWord) (b : BlockOf wr wc ns) : (setResult v b).sDeg = b.sDeg := rfl
@[simp] theorem setResult_sMod (v : DWord) (b : BlockOf wr wc ns) : (setResult v b).sMod = b.sMod := rfl
@[simp] theorem setResult_uDeg (v : DWord) (b : BlockOf wr wc ns) : (setResult v b).uDeg = b.uDeg := rfl
@[simp] theorem setResult_uMod (v : DWord) (b : BlockOf wr wc ns) : (setResult v b).uMod = b.uMod := rfl
@[simp] theorem setResult_err (v : DWord) (b : BlockOf wr wc ns) : (setResult v b).err = b.err := rfl
@[simp] theorem setResult_haz (v : DWord) (b : BlockOf wr wc ns) : (setResult v b).haz = b.haz := rfl
@[simp] theorem setResult_errCode (v : DWord) (b : BlockOf wr wc ns) : (setResult v b).errCode = b.errCode := rfl
@[simp] theorem setResult_phase (v : DWord) (b : BlockOf wr wc ns) : (setResult v b).phase = b.phase := rfl
@[simp] theorem setResult_lcmd (v : DWord) (b : BlockOf wr wc ns) : (setResult v b).lcmd = b.lcmd := rfl
@[simp] theorem setResult_sCells (v : DWord) (b : BlockOf wr wc ns) : (setResult v b).sCells = b.sCells := rfl
@[simp] theorem setResult_uCells (v : DWord) (b : BlockOf wr wc ns) : (setResult v b).uCells = b.uCells := rfl

/-! ## setS -/

@[simp] theorem setS_degree (c : Config) (d q : BitVec wr) (ws : List (BitVec wc)) (b : BlockOf wr wc ns) : (setS c d q ws b).degree = b.degree := rfl
@[simp] theorem setS_dlabel (c : Config) (d q : BitVec wr) (ws : List (BitVec wc)) (b : BlockOf wr wc ns) : (setS c d q ws b).dlabel = b.dlabel := rfl
@[simp] theorem setS_seed (c : Config) (d q : BitVec wr) (ws : List (BitVec wc)) (b : BlockOf wr wc ns) : (setS c d q ws b).seed = b.seed := rfl
@[simp] theorem setS_resultLo (c : Config) (d q : BitVec wr) (ws : List (BitVec wc)) (b : BlockOf wr wc ns) : (setS c d q ws b).resultLo = b.resultLo := rfl
@[simp] theorem setS_resultHi (c : Config) (d q : BitVec wr) (ws : List (BitVec wc)) (b : BlockOf wr wc ns) : (setS c d q ws b).resultHi = b.resultHi := rfl
@[simp] theorem setS_sDeg (c : Config) (d q : BitVec wr) (ws : List (BitVec wc)) (b : BlockOf wr wc ns) : (setS c d q ws b).sDeg = d := rfl
@[simp] theorem setS_sMod (c : Config) (d q : BitVec wr) (ws : List (BitVec wc)) (b : BlockOf wr wc ns) : (setS c d q ws b).sMod = q := rfl
@[simp] theorem setS_uDeg (c : Config) (d q : BitVec wr) (ws : List (BitVec wc)) (b : BlockOf wr wc ns) : (setS c d q ws b).uDeg = b.uDeg := rfl
@[simp] theorem setS_uMod (c : Config) (d q : BitVec wr) (ws : List (BitVec wc)) (b : BlockOf wr wc ns) : (setS c d q ws b).uMod = b.uMod := rfl
@[simp] theorem setS_err (c : Config) (d q : BitVec wr) (ws : List (BitVec wc)) (b : BlockOf wr wc ns) : (setS c d q ws b).err = b.err := rfl
@[simp] theorem setS_haz (c : Config) (d q : BitVec wr) (ws : List (BitVec wc)) (b : BlockOf wr wc ns) : (setS c d q ws b).haz = b.haz := rfl
@[simp] theorem setS_errCode (c : Config) (d q : BitVec wr) (ws : List (BitVec wc)) (b : BlockOf wr wc ns) : (setS c d q ws b).errCode = b.errCode := rfl
@[simp] theorem setS_phase (c : Config) (d q : BitVec wr) (ws : List (BitVec wc)) (b : BlockOf wr wc ns) : (setS c d q ws b).phase = b.phase := rfl
@[simp] theorem setS_lcmd (c : Config) (d q : BitVec wr) (ws : List (BitVec wc)) (b : BlockOf wr wc ns) : (setS c d q ws b).lcmd = b.lcmd := rfl
@[simp] theorem setS_sCells (c : Config) (d q : BitVec wr) (ws : List (BitVec wc)) (b : BlockOf wr wc ns) : (setS c d q ws b).sCells = Memory.ofList c ws := rfl
@[simp] theorem setS_uCells (c : Config) (d q : BitVec wr) (ws : List (BitVec wc)) (b : BlockOf wr wc ns) : (setS c d q ws b).uCells = b.uCells := rfl

/-! ## setU -/

@[simp] theorem setU_degree (c : Config) (d q : BitVec wr) (ws : List (BitVec wc)) (b : BlockOf wr wc ns) : (setU c d q ws b).degree = b.degree := rfl
@[simp] theorem setU_dlabel (c : Config) (d q : BitVec wr) (ws : List (BitVec wc)) (b : BlockOf wr wc ns) : (setU c d q ws b).dlabel = b.dlabel := rfl
@[simp] theorem setU_seed (c : Config) (d q : BitVec wr) (ws : List (BitVec wc)) (b : BlockOf wr wc ns) : (setU c d q ws b).seed = b.seed := rfl
@[simp] theorem setU_resultLo (c : Config) (d q : BitVec wr) (ws : List (BitVec wc)) (b : BlockOf wr wc ns) : (setU c d q ws b).resultLo = b.resultLo := rfl
@[simp] theorem setU_resultHi (c : Config) (d q : BitVec wr) (ws : List (BitVec wc)) (b : BlockOf wr wc ns) : (setU c d q ws b).resultHi = b.resultHi := rfl
@[simp] theorem setU_sDeg (c : Config) (d q : BitVec wr) (ws : List (BitVec wc)) (b : BlockOf wr wc ns) : (setU c d q ws b).sDeg = b.sDeg := rfl
@[simp] theorem setU_sMod (c : Config) (d q : BitVec wr) (ws : List (BitVec wc)) (b : BlockOf wr wc ns) : (setU c d q ws b).sMod = b.sMod := rfl
@[simp] theorem setU_uDeg (c : Config) (d q : BitVec wr) (ws : List (BitVec wc)) (b : BlockOf wr wc ns) : (setU c d q ws b).uDeg = d := rfl
@[simp] theorem setU_uMod (c : Config) (d q : BitVec wr) (ws : List (BitVec wc)) (b : BlockOf wr wc ns) : (setU c d q ws b).uMod = q := rfl
@[simp] theorem setU_err (c : Config) (d q : BitVec wr) (ws : List (BitVec wc)) (b : BlockOf wr wc ns) : (setU c d q ws b).err = b.err := rfl
@[simp] theorem setU_haz (c : Config) (d q : BitVec wr) (ws : List (BitVec wc)) (b : BlockOf wr wc ns) : (setU c d q ws b).haz = b.haz := rfl
@[simp] theorem setU_errCode (c : Config) (d q : BitVec wr) (ws : List (BitVec wc)) (b : BlockOf wr wc ns) : (setU c d q ws b).errCode = b.errCode := rfl
@[simp] theorem setU_phase (c : Config) (d q : BitVec wr) (ws : List (BitVec wc)) (b : BlockOf wr wc ns) : (setU c d q ws b).phase = b.phase := rfl
@[simp] theorem setU_lcmd (c : Config) (d q : BitVec wr) (ws : List (BitVec wc)) (b : BlockOf wr wc ns) : (setU c d q ws b).lcmd = b.lcmd := rfl
@[simp] theorem setU_sCells (c : Config) (d q : BitVec wr) (ws : List (BitVec wc)) (b : BlockOf wr wc ns) : (setU c d q ws b).sCells = b.sCells := rfl
@[simp] theorem setU_uCells (c : Config) (d q : BitVec wr) (ws : List (BitVec wc)) (b : BlockOf wr wc ns) : (setU c d q ws b).uCells = Memory.ofList c ws := rfl

/-! ## finish -/

@[simp] theorem finish_degree (b : BlockOf wr wc ns) : (finish b).degree = b.degree := rfl
@[simp] theorem finish_dlabel (b : BlockOf wr wc ns) : (finish b).dlabel = b.dlabel := rfl
@[simp] theorem finish_seed (b : BlockOf wr wc ns) : (finish b).seed = b.seed := rfl
@[simp] theorem finish_resultLo (b : BlockOf wr wc ns) : (finish b).resultLo = b.resultLo := rfl
@[simp] theorem finish_resultHi (b : BlockOf wr wc ns) : (finish b).resultHi = b.resultHi := rfl
@[simp] theorem finish_sDeg (b : BlockOf wr wc ns) : (finish b).sDeg = b.sDeg := rfl
@[simp] theorem finish_sMod (b : BlockOf wr wc ns) : (finish b).sMod = b.sMod := rfl
@[simp] theorem finish_uDeg (b : BlockOf wr wc ns) : (finish b).uDeg = b.uDeg := rfl
@[simp] theorem finish_uMod (b : BlockOf wr wc ns) : (finish b).uMod = b.uMod := rfl
@[simp] theorem finish_err (b : BlockOf wr wc ns) : (finish b).err = b.err := rfl
@[simp] theorem finish_haz (b : BlockOf wr wc ns) : (finish b).haz = b.haz := rfl
@[simp] theorem finish_errCode (b : BlockOf wr wc ns) : (finish b).errCode = b.errCode := rfl
@[simp] theorem finish_phase (b : BlockOf wr wc ns) : (finish b).phase = .idle := rfl
@[simp] theorem finish_lcmd (b : BlockOf wr wc ns) : (finish b).lcmd = b.lcmd := rfl
@[simp] theorem finish_sCells (b : BlockOf wr wc ns) : (finish b).sCells = b.sCells := rfl
@[simp] theorem finish_uCells (b : BlockOf wr wc ns) : (finish b).uCells = b.uCells := rfl

/-! ## raiseError -/

@[simp] theorem raiseError_degree (e : ErrCode) (b : BlockOf wr wc ns) : (raiseError e b).degree = b.degree := rfl
@[simp] theorem raiseError_dlabel (e : ErrCode) (b : BlockOf wr wc ns) : (raiseError e b).dlabel = b.dlabel := rfl
@[simp] theorem raiseError_seed (e : ErrCode) (b : BlockOf wr wc ns) : (raiseError e b).seed = b.seed := rfl
@[simp] theorem raiseError_resultLo (e : ErrCode) (b : BlockOf wr wc ns) : (raiseError e b).resultLo = b.resultLo := rfl
@[simp] theorem raiseError_resultHi (e : ErrCode) (b : BlockOf wr wc ns) : (raiseError e b).resultHi = b.resultHi := rfl
@[simp] theorem raiseError_sDeg (e : ErrCode) (b : BlockOf wr wc ns) : (raiseError e b).sDeg = b.sDeg := rfl
@[simp] theorem raiseError_sMod (e : ErrCode) (b : BlockOf wr wc ns) : (raiseError e b).sMod = b.sMod := rfl
@[simp] theorem raiseError_uDeg (e : ErrCode) (b : BlockOf wr wc ns) : (raiseError e b).uDeg = b.uDeg := rfl
@[simp] theorem raiseError_uMod (e : ErrCode) (b : BlockOf wr wc ns) : (raiseError e b).uMod = b.uMod := rfl
@[simp] theorem raiseError_err (e : ErrCode) (b : BlockOf wr wc ns) : (raiseError e b).err = true := rfl
@[simp] theorem raiseError_haz (e : ErrCode) (b : BlockOf wr wc ns) : (raiseError e b).haz = b.haz := rfl
@[simp] theorem raiseError_errCode (e : ErrCode) (b : BlockOf wr wc ns) : (raiseError e b).errCode = e := rfl
@[simp] theorem raiseError_phase (e : ErrCode) (b : BlockOf wr wc ns) : (raiseError e b).phase = .idle := rfl
@[simp] theorem raiseError_lcmd (e : ErrCode) (b : BlockOf wr wc ns) : (raiseError e b).lcmd = b.lcmd := rfl
@[simp] theorem raiseError_sCells (e : ErrCode) (b : BlockOf wr wc ns) : (raiseError e b).sCells = b.sCells := rfl
@[simp] theorem raiseError_uCells (e : ErrCode) (b : BlockOf wr wc ns) : (raiseError e b).uCells = b.uCells := rfl

/-! ## setHazard -/

@[simp] theorem setHazard_degree (b : BlockOf wr wc ns) : (setHazard b).degree = b.degree := rfl
@[simp] theorem setHazard_dlabel (b : BlockOf wr wc ns) : (setHazard b).dlabel = b.dlabel := rfl
@[simp] theorem setHazard_seed (b : BlockOf wr wc ns) : (setHazard b).seed = b.seed := rfl
@[simp] theorem setHazard_resultLo (b : BlockOf wr wc ns) : (setHazard b).resultLo = b.resultLo := rfl
@[simp] theorem setHazard_resultHi (b : BlockOf wr wc ns) : (setHazard b).resultHi = b.resultHi := rfl
@[simp] theorem setHazard_sDeg (b : BlockOf wr wc ns) : (setHazard b).sDeg = b.sDeg := rfl
@[simp] theorem setHazard_sMod (b : BlockOf wr wc ns) : (setHazard b).sMod = b.sMod := rfl
@[simp] theorem setHazard_uDeg (b : BlockOf wr wc ns) : (setHazard b).uDeg = b.uDeg := rfl
@[simp] theorem setHazard_uMod (b : BlockOf wr wc ns) : (setHazard b).uMod = b.uMod := rfl
@[simp] theorem setHazard_err (b : BlockOf wr wc ns) : (setHazard b).err = b.err := rfl
@[simp] theorem setHazard_haz (b : BlockOf wr wc ns) : (setHazard b).haz = true := rfl
@[simp] theorem setHazard_errCode (b : BlockOf wr wc ns) : (setHazard b).errCode = b.errCode := rfl
@[simp] theorem setHazard_phase (b : BlockOf wr wc ns) : (setHazard b).phase = b.phase := rfl
@[simp] theorem setHazard_lcmd (b : BlockOf wr wc ns) : (setHazard b).lcmd = b.lcmd := rfl
@[simp] theorem setHazard_sCells (b : BlockOf wr wc ns) : (setHazard b).sCells = b.sCells := rfl
@[simp] theorem setHazard_uCells (b : BlockOf wr wc ns) : (setHazard b).uCells = b.uCells := rfl

/-! ## reset, the environment, and the command word -/

@[simp] theorem softReset_eq (c : Config) (b : BlockOf wr wc ns) : softReset c b = Block.reset c := rfl
@[simp] theorem takeTurn_inputs (e : EnvOf wr) : (takeTurn e).inputs = e.inputs := rfl
@[simp] theorem takeTurn_replies (e : EnvOf wr) : (takeTurn e).replies = e.replies := rfl
@[simp] theorem takeTurn_hostTurns (e : EnvOf wr) : (takeTurn e).hostTurns = e.hostTurns - 1 := rfl
@[simp] theorem takeTurn_draws (e : EnvOf wr) : (takeTurn e).draws = e.draws := rfl
@[simp] theorem takeTurn_inReset (e : EnvOf wr) : (takeTurn e).inReset = e.inReset := rfl
@[simp] theorem reply_inputs (v : BitVec wr) (e : EnvOf wr) : (reply v e).inputs = e.inputs := rfl
@[simp] theorem reply_replies (v : BitVec wr) (e : EnvOf wr) : (reply v e).replies = v :: e.replies := rfl
@[simp] theorem reply_hostTurns (v : BitVec wr) (e : EnvOf wr) : (reply v e).hostTurns = e.hostTurns := rfl
@[simp] theorem reply_draws (v : BitVec wr) (e : EnvOf wr) : (reply v e).draws = e.draws := rfl
@[simp] theorem reply_inReset (v : BitVec wr) (e : EnvOf wr) : (reply v e).inReset = e.inReset := rfl
@[simp] theorem hardReset_blk (c : Config) (s : State) : (hardReset c s).blk = Block.reset c := rfl
@[simp] theorem hardReset_inReset (c : Config) (s : State) :
    (hardReset c s).env.inReset = true := rfl
@[simp] theorem releaseReset_blk (c : Config) (s : State) :
    (releaseReset c s).blk = Block.reset c := rfl
@[simp] theorem releaseReset_inReset (c : Config) (s : State) :
    (releaseReset c s).env.inReset = false := rfl
@[simp] theorem withFetchWord_phase (s : State) (n w : Nat) :
    (s.withFetchWord n w).blk.phase = .busy := rfl
@[simp] theorem withFetchWord_lcmd (s : State) (n w : Nat) :
    (s.withFetchWord n w).blk.lcmd = tableWord n w := rfl

/-- The command placed by `withFetchWord` is the one the very next step runs. -/
theorem withFetchWord_engineTurn (s : State) (n w : Nat) :
    engineTurn (s.withFetchWord n w) = true := by
  simp [engineTurn, busyBit, State.withFetchWord]

end Sys2Proof.Machine
end

