-- ==== Sys2Proof/Laws/Effects.lean ====
section
/-! SUPPORT. The machine's commands are the configured effects at NTPS-1, and everything a retired
command can do. -/

namespace Sys2Proof.Machine

/-- `exec` performs the effect of the command at NTPS-1. -/
theorem exec_eq_retire (i : Instr) (s : State) :
    exec i s = retire (effect Config.ntps1 i) s := by
  cases i <;> rfl

/-- Everything an engine step of a command can do: end normally with the command's writes, or leave
the error record; the environment is untouched. -/
theorem exec_cases {i : Instr} {s t : State} (h : exec i s = .next t) :
    (∃ b, effect Config.ntps1 i s.blk = .ok b ∧ t = { s with blk := finish b }) ∨
    (∃ e, effect Config.ntps1 i s.blk = .error e ∧ t = { s with blk := raiseError e s.blk }) := by
  rw [exec_eq_retire, retire] at h
  cases hf : effect Config.ntps1 i s.blk with
  | ok b =>
    rw [hf, settle] at h
    exact .inl ⟨b, rfl, by cases h; rfl⟩
  | error e =>
    rw [hf, settle] at h
    exact .inr ⟨e, rfl, by cases h; rfl⟩

/-- A command whose effect is known ends in the state that effect gives. -/
theorem exec_of_ok {i : Instr} {s : State} {b : Block}
    (h : effect Config.ntps1 i s.blk = .ok b) :
    exec i s = .next { s with blk := finish b } := by
  rw [exec_eq_retire, retire, h, settle]

/-- A command that raises an error leaves the error record. -/
theorem exec_of_error {i : Instr} {s : State} {e : ErrCode}
    (h : effect Config.ntps1 i s.blk = .error e) :
    exec i s = .next { s with blk := raiseError e s.blk } := by
  rw [exec_eq_retire, retire, h, settle]

@[simp] theorem paramQValue_ntps1 : paramQValue Config.ntps1 = .ok 8192 := rfl

/-- What the samplers' checks answer at NTPS-1. -/
theorem samplerModulus_ntps1 (b : Block) :
    samplerModulus Config.ntps1 b
      = if b.degree.toNat < 2 then .error .invalidDegree else .ok 8192 := rfl

/-- RESULT holds what was last written to it. -/
@[simp] theorem result_setResult (v : DWord) (b : Block) : result (setResult v b) = v := by
  simp only [result, setResult_resultHi, setResult_resultLo]
  ext i hi
  rw [← BitVec.getLsbD_eq_getElem, ← BitVec.getLsbD_eq_getElem, BitVec.getLsbD_append]
  by_cases h : i < 32
  · simp [h]
  · have h1 : i - 32 < 32 := by omega
    have h2 : 32 + (i - 32) = i := by omega
    simp [h, h1, h2]

end Sys2Proof.Machine
end

