-- ==== Sys2Proof/Laws/Memory.lean ====
section
/-! SUPPORT. What the operations over a coefficient buffer do: read after write, read of a filled
buffer, and that every operation keeps the canonical form. -/

namespace Sys2Proof.Machine

variable {wc : Nat}

@[simp] theorem read_nil (i : Nat) : Memory.read ([] : MemoryOf wc) i = 0#wc := rfl

@[simp] theorem wfFrom_nil (n lo : Nat) : Memory.wfFrom n lo ([] : MemoryOf wc) = true := rfl

theorem wfFrom_cons {n lo k : Nat} {w : BitVec wc} {m : MemoryOf wc} :
    Memory.wfFrom n lo ((k, w) :: m) = true ↔
      lo ≤ k ∧ k < n ∧ w ≠ 0#wc ∧ Memory.wfFrom n (k + 1) m = true := by
  simp [Memory.wfFrom, and_assoc]

theorem wfFrom_mono {n lo lo' : Nat} {m : MemoryOf wc} (hle : lo' ≤ lo)
    (h : Memory.wfFrom n lo m = true) : Memory.wfFrom n lo' m = true := by
  cases m with
  | nil => rfl
  | cons e m =>
    obtain ⟨h1, h2⟩ := wfFrom_cons.mp h
    exact wfFrom_cons.mpr ⟨hle.trans h1, h2⟩

/-- Below its first index a canonical buffer reads 0. -/
theorem read_below {n lo i : Nat} {m : MemoryOf wc} (h : Memory.wfFrom n lo m = true) (hi : i < lo) :
    Memory.read m i = 0#wc := by
  induction m generalizing lo with
  | nil => rfl
  | cons e m ih =>
    obtain ⟨h1, -, -, h4⟩ := wfFrom_cons.mp h
    have hne : e.1 ≠ i := by omega
    simpa [Memory.read, hne] using ih h4 (by omega)

/-- A cell at index N_MAX or above reads 0. -/
theorem read_above {n lo i : Nat} {m : MemoryOf wc} (h : Memory.wfFrom n lo m = true) (hi : n ≤ i) :
    Memory.read m i = 0#wc := by
  induction m generalizing lo with
  | nil => rfl
  | cons e m ih =>
    obtain ⟨-, h2, -, h4⟩ := wfFrom_cons.mp h
    have hne : e.1 ≠ i := by omega
    simpa [Memory.read, hne] using ih h4

/-- A write keeps the canonical form. -/
theorem write_wfFrom {n lo i : Nat} {v : BitVec wc} {m : MemoryOf wc} (h : Memory.wfFrom n lo m = true)
    (hlo : lo ≤ i) (hi : i < n) : Memory.wfFrom n lo (Memory.write m i v) = true := by
  induction m generalizing lo with
  | nil => by_cases hv : v = 0#wc <;> simp [Memory.write, hv, wfFrom_cons, hlo, hi]
  | cons e m ih =>
    obtain ⟨k, w⟩ := e
    obtain ⟨h1, h2, h3, h4⟩ := wfFrom_cons.mp h
    by_cases hlt : i < k
    · by_cases hv : v = 0#wc
      · simpa [Memory.write, hlt, hv] using h
      · simp only [Memory.write, hlt, hv, if_true, if_false]
        exact wfFrom_cons.mpr ⟨hlo, hi, hv, wfFrom_cons.mpr ⟨hlt, h2, h3, h4⟩⟩
    · by_cases heq : i = k
      · subst heq
        by_cases hv : v = 0#wc
        · simpa [Memory.write, hv] using wfFrom_mono (by omega) h4
        · simp only [Memory.write, lt_irrefl, hv, if_true, if_false]
          exact wfFrom_cons.mpr ⟨hlo, hi, hv, h4⟩
      · simp only [Memory.write, hlt, heq, if_false]
        exact wfFrom_cons.mpr ⟨h1, h2, h3, ih h4 (by omega)⟩

/-- Writing a cell that exists keeps the canonical form. -/
theorem write_wf {c : Config} {m : MemoryOf wc} {i : Nat} {v : BitVec wc} (h : Memory.wf c m = true)
    (hi : i < c.nMax) : Memory.wf c (Memory.write m i v) = true := write_wfFrom h (Nat.zero_le i) hi

/-- Read after write, in a canonical buffer. -/
theorem read_writeFrom {n lo i j : Nat} {v : BitVec wc} {m : MemoryOf wc} (h : Memory.wfFrom n lo m = true) :
    Memory.read (Memory.write m i v) j = if j = i then v else Memory.read m j := by
  induction m generalizing lo with
  | nil =>
    by_cases hv : v = 0#wc
    · simp [Memory.write, hv]
    · by_cases hj : j = i
      · simp [Memory.write, Memory.read, hv, hj]
      · simp [Memory.write, Memory.read, hv, hj, Ne.symm hj]
  | cons e m ih =>
    obtain ⟨k, w⟩ := e
    obtain ⟨h1, h2, h3, h4⟩ := wfFrom_cons.mp h
    by_cases hlt : i < k
    · by_cases hv : v = 0#wc
      · by_cases hj : j = i
        · subst hj
          have hr := read_below h4 (show j < k + 1 by omega)
          have hne : k ≠ j := by omega
          simp [Memory.write, hlt, hv, Memory.read, hr, hne]
        · simp [Memory.write, hlt, hv, hj]
      · by_cases hj : j = i
        · simp [Memory.write, hlt, hv, Memory.read, hj]
        · simp [Memory.write, hlt, hv, Memory.read, hj, Ne.symm hj]
    · by_cases heq : i = k
      · subst heq
        by_cases hv : v = 0#wc
        · by_cases hj : j = i
          · subst hj
            simp [Memory.write, hv, read_below h4 (Nat.lt_succ_self j)]
          · simp [Memory.write, hv, hj, Memory.read, Ne.symm hj]
        · by_cases hj : j = i
          · simp [Memory.write, hv, Memory.read, hj]
          · simp [Memory.write, hv, Memory.read, hj, Ne.symm hj]
      · by_cases hk : k = j
        · subst hk
          simp [Memory.write, hlt, heq, Memory.read, Ne.symm heq]
        · simp [Memory.write, hlt, heq, Memory.read, hk, ih h4]

/-- Read after write. -/
theorem read_write {c : Config} {m : MemoryOf wc} {i j : Nat} {v : BitVec wc} (h : Memory.wf c m = true) :
    Memory.read (Memory.write m i v) j = if j = i then v else Memory.read m j := read_writeFrom h

/-- A filled buffer is canonical. -/
theorem ofListFrom_wfFrom {n k : Nat} {ws : List (BitVec wc)} (h : k + ws.length ≤ n) :
    Memory.wfFrom n k (Memory.ofListFrom k ws) = true := by
  induction ws generalizing k with
  | nil => rfl
  | cons w ws ih =>
    have ih' := ih (k := k + 1) (by simp at h; omega)
    by_cases hw : w = 0#wc
    · simpa [Memory.ofListFrom, hw] using wfFrom_mono (Nat.le_succ k) ih'
    · simp only [Memory.ofListFrom, hw, if_false]
      exact wfFrom_cons.mpr ⟨le_rfl, by simp at h; omega, hw, ih'⟩

/-- Every producing command leaves a canonical buffer. -/
theorem ofList_wf (c : Config) (ws : List (BitVec wc)) : Memory.wf c (Memory.ofList c ws) = true :=
  ofListFrom_wfFrom (by simp)

theorem read_ofListFrom {k i : Nat} {ws : List (BitVec wc)} :
    Memory.read (Memory.ofListFrom k ws) (k + i) = ws.getD i 0#wc := by
  induction ws generalizing k i with
  | nil => simp [Memory.ofListFrom]
  | cons w ws ih =>
    by_cases hw : w = 0#wc
    · cases i with
      | zero =>
        have hwf : Memory.wfFrom (k + 1 + ws.length) (k + 1) (Memory.ofListFrom (k + 1) ws) = true :=
          ofListFrom_wfFrom le_rfl
        simpa [Memory.ofListFrom, hw] using read_below hwf (Nat.lt_succ_self k)
      | succ i =>
        have := ih (k := k + 1) (i := i)
        simpa [Memory.ofListFrom, hw, Nat.add_comm, Nat.add_left_comm, Nat.add_assoc] using this
    · cases i with
      | zero => simp [Memory.ofListFrom, hw, Memory.read]
      | succ i =>
        have := ih (k := k + 1) (i := i)
        have e : k + (i + 1) = k + 1 + i := by omega
        have hne : k ≠ k + 1 + i := by omega
        rw [e]
        simpa [Memory.ofListFrom, hw, Memory.read, hne] using this

/-- What a filled buffer holds: the words in order, and 0 behind them. -/
theorem read_ofList (c : Config) (ws : List (BitVec wc)) (i : Nat) :
    Memory.read (Memory.ofList c ws) i = if i < c.nMax then ws.getD i 0#wc else 0#wc := by
  have h := read_ofListFrom (k := 0) (i := i) (ws := ws.take c.nMax)
  rw [Nat.zero_add] at h
  rw [Memory.ofList, h]
  by_cases hi : i < c.nMax <;> simp [List.getD_eq_getElem?_getD, hi]

@[simp] theorem words_length (m : MemoryOf wc) (d : Nat) : (Memory.words m d).length = d := by
  simp [Memory.words]

theorem words_getD (m : MemoryOf wc) (d i : Nat) :
    (Memory.words m d).getD i 0#wc = if i < d then Memory.read m i else 0#wc := by
  by_cases h : i < d <;> simp [Memory.words, List.getD_eq_getElem?_getD, h]

end Sys2Proof.Machine
end

