-- ==== Sys2Proof/Laws/PerInstr.lean ====
section
/-! SUPPORT. Statements made per command, about commands as syntax. -/

namespace Sys2Proof.Laws.Fields

/-- The fields of the command's word: OP and SEL are the command's and RSV is 0, and SEL is 0 unless
OP is 0x30 (30_encoding.md R80). -/
def Statement (i : Instr) : Prop :=
  wordOP (encode i) = opOf i ∧ wordSEL (encode i) = selOf i ∧ wordRSV (encode i) = 0 ∧
    (opOf i ≠ 0x30 → selOf i = 0)

theorem zeroS : Statement .zeroS := by unfold Statement; decide
theorem zeroU : Statement .zeroU := by unfold Statement; decide
theorem initS : Statement .initS := by unfold Statement; decide
theorem initU : Statement .initU := by unfold Statement; decide
theorem lift : Statement .lift := by unfold Statement; decide
theorem down : Statement .down := by unfold Statement; decide
theorem istriS : Statement .istriS := by unfold Statement; decide
theorem istriU : Statement .istriU := by unfold Statement; decide
theorem hammingS : Statement .hammingS := by unfold Statement; decide
theorem hammingU : Statement .hammingU := by unfold Statement; decide
theorem norm1S : Statement .norm1S := by unfold Statement; decide
theorem norm1U : Statement .norm1U := by unfold Statement; decide
theorem gateS : Statement .gateS := by unfold Statement; decide
theorem gateU : Statement .gateU := by unfold Statement; decide
theorem sampleT : Statement .sampleT := by unfold Statement; decide
theorem sampleTP : Statement .sampleTP := by unfold Statement; decide
theorem sampleTU : Statement .sampleTU := by unfold Statement; decide
theorem sampleTPU : Statement .sampleTPU := by unfold Statement; decide
theorem uniform : Statement .uniform := by unfold Statement; decide
theorem paramN : Statement .paramN := by unfold Statement; decide
theorem paramK : Statement .paramK := by unfold Statement; decide
theorem paramSeedbits : Statement .paramSeedbits := by unfold Statement; decide
theorem paramCoinbits : Statement .paramCoinbits := by unfold Statement; decide
theorem paramSkeybits : Statement .paramSkeybits := by unfold Statement; decide
theorem paramLogq : Statement .paramLogq := by unfold Statement; decide
theorem paramQ : Statement .paramQ := by unfold Statement; decide
theorem paramTritbits : Statement .paramTritbits := by unfold Statement; decide
theorem paramPkbits : Statement .paramPkbits := by unfold Statement; decide
theorem paramSkbits : Statement .paramSkbits := by unfold Statement; decide
theorem paramCtbits : Statement .paramCtbits := by unfold Statement; decide

end Sys2Proof.Laws.Fields
end

