-- ==== Sys2Proof/Laws/Step.lean ====
section
/-! SUPPORT. Everything one step can do, and everything a host write can do to the block. -/

namespace Sys2Proof.Machine

/-- Everything a step that answers a next state can do: the engine's step, nothing, or one input. -/
theorem step_cases {s t : State} (h : step s = .next t) :
    (engineTurn s = true ∧ engineStep s = .next t) ∨
    (engineTurn s = false ∧ s.env.inputs = [] ∧ t = s) ∨
    (∃ i rest, engineTurn s = false ∧ s.env.inputs = i :: rest ∧
      perform i { s with env := takeTurn { s.env with inputs := rest } } = .next t) := by
  unfold step at h
  split at h
  · exact .inl ⟨‹_›, h⟩
  · rename_i hb
    have hb' : engineTurn s = false := by simpa using hb
    split at h
    · rename_i hi
      exact .inr (.inl ⟨hb', hi, by cases h; rfl⟩)
    · rename_i i rest hi
      exact .inr (.inr ⟨i, rest, hb', hi, h⟩)

/-- An access is answered exactly when it is 32 bits wide, at a multiple of 4, inside the window. -/
theorem refusalOf_eq_none {w : Width} {off : Offset} :
    refusalOf Config.ntps1 w off = none ↔ w = .w32 ∧ off.toNat % 4 = 0 ∧ off.toNat < 0x3000 := by
  have hw : w.answered Config.ntps1 = true ↔ w = .w32 := by cases w <;> decide
  have ha : off.aligned Config.ntps1 = true ↔ off.toNat % 4 = 0 := by simp [Offset.aligned]
  have hi : off.inWindow = true ↔ off.toNat < 0x3000 := by simp [Offset.inWindow]
  rw [← hw, ← ha, ← hi]
  unfold refusalOf
  by_cases h1 : off.inWindow <;> by_cases h2 : w.answered Config.ntps1 <;>
    by_cases h3 : off.aligned Config.ntps1 <;> simp [h1, h2, h3]

/-- Everything a performed input can do. -/
theorem perform_cases {i : Input} {s t : State} (h : perform i s = .next t) :
    (∃ off, i = .read .w32 off ∧ s.env.inReset = false ∧ refusalOf Config.ntps1 .w32 off = none ∧
      t = readInput Config.ntps1 (targetAt Config.ntps1 off.toNat) s) ∨
    (∃ off v, i = .write .w32 off v ∧ s.env.inReset = false ∧ refusalOf Config.ntps1 .w32 off = none ∧
      t = writeInput Config.ntps1 (targetAt Config.ntps1 off.toNat) v s) ∨
    (i = .wait ∧ s.env.inReset = false ∧ t = waitInput Config.ntps1 s) ∨
    (i = .resetAssert ∧ t = hardReset Config.ntps1 s) ∨
    (i = .resetRelease ∧ t = releaseReset Config.ntps1 s) := by
  have access : ∀ (w : Width) (off : Offset) (act : Target → State → State),
      hostAccess w off act s = .next t → s.env.inReset = false ∧ w = .w32 ∧
        refusalOf Config.ntps1 w off = none ∧ t = act (targetAt Config.ntps1 off.toNat) s := by
    intro w off act hh
    unfold hostAccess at hh
    split at hh
    · cases hh
    · rename_i hr
      split at hh
      · cases hh
      · rename_i hn
        have hw : w = .w32 := (refusalOf_eq_none.mp hn).1
        cases hh
        exact ⟨by simpa using hr, hw, hn, rfl⟩
  cases i with
  | read w off =>
    obtain ⟨h1, rfl, h3, h4⟩ := access w off _ h
    exact .inl ⟨off, rfl, h1, h3, h4⟩
  | write w off v =>
    obtain ⟨h1, rfl, h3, h4⟩ := access w off (fun t => writeInput Config.ntps1 t v) h
    exact .inr (.inl ⟨off, v, rfl, h1, h3, h4⟩)
  | wait =>
    simp only [perform] at h
    split at h
    · cases h
    · rename_i hr
      cases h
      exact .inr (.inr (.inl ⟨rfl, by simpa using hr, rfl⟩))
  | resetAssert => cases h; exact .inr (.inr (.inr (.inl ⟨rfl, rfl⟩)))
  | resetRelease => cases h; exact .inr (.inr (.inr (.inr ⟨rfl, rfl⟩)))

@[simp] theorem readInput_blk (c : Config) (t : Target) (s : State) :
    (readInput c t s).blk = s.blk := rfl

@[simp] theorem waitInput_blk (c : Config) (s : State) : (waitInput c s).blk = s.blk := by
  unfold waitInput
  split <;> rfl

@[simp] theorem readInput_inReset (c : Config) (t : Target) (s : State) :
    (readInput c t s).env.inReset = s.env.inReset := by
  unfold readInput
  dsimp only
  split <;> rfl

@[simp] theorem waitInput_inReset (c : Config) (s : State) :
    (waitInput c s).env.inReset = s.env.inReset := by
  unfold waitInput
  split <;> simp

@[simp] theorem writeInput_blk (c : Config) (t : Target) (v : Word) (s : State) :
    (writeInput c t v s).blk = writeTarget c v t s.blk := rfl

@[simp] theorem writeInput_inReset (c : Config) (t : Target) (v : Word) (s : State) :
    (writeInput c t v s).env.inReset = s.env.inReset := by
  unfold writeInput
  dsimp only
  split <;> rfl

/-- While BUSY a write changes at most HAZ, or it is the soft reset. -/
theorem writeTarget_busy {c : Config} {v : Word} {t : Target} {b : Block}
    (hb : busyBit b = true) :
    writeTarget c v t b = b ∨ writeTarget c v t b = { b with haz := true } ∨
      (t = .reg .status ∧ writeTarget c v t b = { b with haz := false }) ∨
      (t = .reg .ctrl ∧ v.getLsbD 0 = true ∧ writeTarget c v t b = Block.reset c) := by
  cases t with
  | reg r =>
    cases r <;>
      simp [writeTarget, writeReg, writeIdle, writeDegree, writeCmd, writeStatus, acceptsCommand,
        hb, setHazard] <;>
      by_cases h0 : v.getLsbD 0 <;> by_cases h2 : v.getLsbD 2 <;> simp_all
  | sCell i => simp [writeTarget, writeIdle, hb, setHazard]
  | uCell i => simp [writeTarget, writeIdle, hb, setHazard]
  | reserved => simp [writeTarget]

/-- The offset of a register names it (10_state.md R21). -/
theorem targetAt_regOffset (c : Config) (r : Reg) : targetAt c (regOffset r) = .reg r := by
  cases r with
  | seed k => fin_cases k <;> rfl
  | _ => rfl

/-- The offset of an S cell names it (20_memory.md R63). -/
theorem targetAt_sOffset {i : Nat} (h : i < 701) :
    targetAt Config.ntps1 (0x1000 + 4 * i) = .sCell i := by
  have hi : (0x1000 + 4 * i - 0x1000) / 4 = i := by omega
  unfold targetAt
  rw [if_neg (by omega), if_pos (by omega), cellBytes_ntps1, nMax_ntps1, hi, if_pos h]

/-- The offset of a U cell names it (20_memory.md R63). -/
theorem targetAt_uOffset {i : Nat} (h : i < 701) :
    targetAt Config.ntps1 (0x2000 + 4 * i) = .uCell i := by
  have hi : (0x2000 + 4 * i - 0x2000) / 4 = i := by omega
  unfold targetAt
  rw [if_neg (by omega), if_neg (by omega), if_pos (by omega), cellBytes_ntps1, nMax_ntps1, hi,
    if_pos h]

/-- An S or U cell that an offset names exists. -/
theorem targetAt_cell_lt {c : Config} {off i : Nat}
    (h : targetAt c off = .sCell i ∨ targetAt c off = .uCell i) : i < c.nMax := by
  unfold targetAt at h
  split_ifs at h with h1 h2 h3 h4 h5
  · split at h <;> simp at h
  · simp at h; omega
  · simp at h
  · simp at h; omega
  · simp at h
  · simp at h

end Sys2Proof.Machine
end

