-- ==== Sys2Proof/Tests/Slice0.lean ====
section
/-! SUPPORT. Tests: expected values from spec/95_test_vectors.md and the rules' own examples (named
in each comment), and for every statement with hypotheses a witness that meets them. -/

namespace Sys2Proof.Tests

open Sys2Proof Sys2Proof.Machine Sys2Proof.Claims

/-! ## Helpers -/

/-- The reset state with a changed block. -/
def stateWith (f : Block → Block) : State := { State.reset with blk := f State.reset.blk }

/-- The state whose S polynomial is `ws` with modulus tag `q`. -/
def stateS (q : Word) (ws : List Word) : State :=
  stateWith (setS Config.ntps1 (BitVec.ofNat 32 ws.length) q ws)

/-- The state whose U polynomial is `ws` with modulus tag `q`. -/
def stateU (q : Word) (ws : List Word) : State :=
  stateWith (setU Config.ntps1 (BitVec.ofNat 32 ws.length) q ws)

/-- The state with DEGREE = `d`. -/
def stateD (d : Word) : State := stateWith fun b => { b with degree := d }

/-- The state with pending inputs. -/
def pending (is : List Input) (s : State) : State := { s with env := { s.env with inputs := is } }

/-- A BUSY state with command word `v` and `n` host turns before its engine step. -/
def busyWith (v : Word) (n : Nat) (s : State) : State :=
  { blk := { s.blk with phase := .busy, lcmd := v }, env := { s.env with hostTurns := n } }

/-- The block a step leaves (the reset block with HAZ set where the step stops). -/
def blockAfter (o : Host.Outcome State Fault Refusal) : Block :=
  match o with
  | .next t => t.blk
  | .fault _ => setHazard State.reset.blk
  | .refused _ => setHazard State.reset.blk

/-- S cells 0 .. n-1. -/
def sFirst (n : Nat) (b : Block) : List Word := Memory.words b.sCells n

/-- U cells 0 .. n-1. -/
def uFirst (n : Nat) (b : Block) : List Word := Memory.words b.uCells n

/-! ## Well-formedness: an ill-formed term for each check -/

theorem test_wf_width : Input.wellFormed (wr := 32) Config.ntps1 (.read .w16 0x014) = false := by decide
theorem test_wf_aligned : Input.wellFormed (wr := 32) Config.ntps1 (.write .w32 0x002 5) = false := by
  decide
theorem test_wf_window : Input.wellFormed (wr := 32) Config.ntps1 (.read .w32 0x3000) = false := by decide
theorem test_wf_value : HostStmt.wellFormed Config.ntps1 (.wr .degree 4294967296) = false := by
  decide
theorem test_wf_negative : HostStmt.wellFormed Config.ntps1 (.wr .degree (-2147483649)) = false := by
  decide
theorem test_wf_cell : HostStmt.wellFormed Config.ntps1 (.rdS 701) = false := by decide
theorem test_wf_write_cell : HostStmt.wellFormed Config.ntps1 (.wrU 701 0) = false := by decide
theorem test_wf_seed : HostStmt.wellFormed Config.ntps1 (.seed (List.replicate 31 0)) = false := by
  decide
theorem test_wf_accepts : Input.wellFormed (wr := 32) Config.ntps1 (.write .w32 0x1AF0 5) = true := by
  decide
/-- 00_scope.md R8: the values this hardware takes are legal, a buffer of 1025 cells is not. -/
theorem test_config_legal :
    Config.ntps1.Legal ∧ ¬ ({ Config.ntps1 with nMax := 1025 } : Config).Legal := by decide

/-! ## Decoding: words written bit by bit from 30_encoding.md R80 and R83, most significant first -/

theorem test_decode_zeroS :
    decode 0b0000000000000000_00000000_00000001 = .ok .zeroS := by decide
theorem test_decode_initU :
    decode 0b0000000000000000_00000000_00000100 = .ok .initU := by decide
theorem test_decode_lift :
    decode 0b0000000000000000_00000000_00001000 = .ok .lift := by decide
theorem test_decode_norm1U :
    decode 0b0000000000000000_00000000_00010101 = .ok .norm1U := by decide
theorem test_decode_gateS :
    decode 0b0000000000000000_00000000_00011000 = .ok .gateS := by decide
theorem test_decode_sampleTPU :
    decode 0b0000000000000000_00000000_00100011 = .ok .sampleTPU := by decide
theorem test_decode_uniform :
    decode 0b0000000000000000_00000000_00101000 = .ok .uniform := by decide
theorem test_decode_paramN :
    decode 0b0000000000000000_00000000_00110000 = .ok .paramN := by decide
theorem test_decode_paramCtbits :
    decode 0b0000000000000000_00001010_00110000 = .ok .paramCtbits := by decide
/-- Every row of 30_encoding.md R83. -/
theorem test_decode_every_row : ∀ row ∈ opcodeMap, decode row.1 = .ok row.2.2 := by decide
theorem test_decodeTableWord : decodeTableWord 32 0x00000930 = some .paramSkbits := by decide
/-- 95_test_vectors.md V-E1, with the check of R84 that refuses each word. -/
theorem test_decode_illegal :
    [0x00000000, 0x000000FF, 0x00000005, 0x00010001, 0x00000101, 0x00000B30, 0x80000030,
        0x00000120].map decode
      = [.error .unknownOpcode, .error .unknownOpcode, .error .unknownOpcode,
         .error .reservedBitsSet, .error .selectorNotZero, .error .selectorTooLarge,
         .error .reservedBitsSet, .error .selectorNotZero] := by decide

/-! ## Commands, one engine step each -/

/-- V-P1, through the engine step from reset. -/
theorem test_param_results :
    [0x30, 0x130, 0x230, 0x330, 0x430, 0x530, 0x630, 0x730, 0x830, 0x930, 0xA30].map
        (fun w => (blockAfter (step (State.reset.withFetchWord 32 w))).resultLo)
      = [701, 2, 256, 256, 256, 13, 8192, 1120, 9100, 2240, 9100] := by decide
/-- V-P2: PARAM_N = 509. -/
theorem test_param_other_degree :
    statusWord (settle State.reset.blk
      (effect { Config.ntps1 with paramN := 509 } .paramQ State.reset.blk)) = 0x12 := by decide
/-- V-P2: UNSUPPORTED_PARAMETER comes before INVALID_DEGREE. -/
theorem test_sample_other_degree :
    statusWord (settle (stateD 1).blk
      (effect { Config.ntps1 with paramN := 509 } .sampleT (stateD 1).blk)) = 0x12 := by decide
/-- V-K1 -/
theorem test_zeroS :
    let b := blockAfter (exec .zeroS (stateWith fun b => { setS Config.ntps1 3 8192 [1, 2, 3] b with
      degree := 5 }))
    (b.sDeg, b.sMod, b.sCells) = (5, 0, []) := by decide
/-- V-K1 -/
theorem test_zeroU :
    let b := blockAfter (exec .zeroU (stateWith fun b => { setU Config.ntps1 3 8192 [1, 2, 3] b with
      degree := 0 }))
    (b.uDeg, b.uMod, b.uCells) = (0, 0, []) := by decide
/-- V-K1 -/
theorem test_initS :
    let b := blockAfter (exec .initS (stateS 8192 [1, 2]))
    (b.sDeg, b.sMod, b.sCells, b.degree) = (0, 0, [], 701) := by decide
theorem test_initU :
    let b := blockAfter (exec .initU (stateU 8192 [1, 2]))
    (b.uDeg, b.uMod, b.uCells, b.degree) = (0, 0, [], 701) := by decide
/-- V-C2 -/
theorem test_lift :
    let b := blockAfter (exec .lift (stateU 8192 [0, 4097, 8191]))
    (b.sDeg, b.sMod, sFirst 4 b) = (3, 8192, [0, 0xFFFFF001, 0xFFFFFFFF, 0]) := by decide
/-- V-C2, degree 0 -/
theorem test_lift_empty :
    let b := blockAfter (exec .lift (stateU 77 []))
    (b.sDeg, b.sMod, b.sCells) = (0, 77, []) := by decide
/-- V-C3 -/
theorem test_down :
    let b := blockAfter (exec .down (stateS 8192 [1, 0xFFFFFFFF, 0, 4096]))
    (b.uDeg, b.uMod, uFirst 5 b) = (4, 8192, [1, 8191, 0, 4096, 0]) := by decide
/-- V-C3, out of domain: -9000 gives -808 -/
theorem test_down_out_of_domain :
    uFirst 1 (blockAfter (exec .down (stateS 8192 [0xFFFFDCD8]))) = [0xFFFFFCD8] := by decide
/-- V-C1, lift -/
theorem test_lift_map :
    [(4096, 8192), (4097, 8192), (20000, 8192), (5, 0), (2, 5), (3, 5),
        ((0x80000000 : Word), (0xFFFFFFFF : Word))].map (fun p => liftWord p.2 p.1)
      = [0x1000, 0xFFFFF001, 0x2E20, 5, 2, 0xFFFFFFFE, 0x80000001] := by decide
/-- V-C1, down -/
theorem test_down_map :
    [(-1, 8192), (-4096, 8192), (-1, 0), (-1, 0xFFFFFFFF),
        ((-2147483648 : Int), (8192 : Word))].map (fun p => downWord p.2 (wrap32 p.1))
      = [0x1FFF, 0x1000, 0xFFFFFFFF, 0xFFFFFFFE, 0x80002000] := by decide
/-- V-K2 -/
theorem test_istriS :
    [[1, 0xFFFFFFFF, 0], [(1 : Word), 2, 0]].map
        (fun ws => result (blockAfter (exec .istriS (stateS 0 ws)))) = [1, 0] := by decide
/-- V-K2 -/
theorem test_istriU :
    [((8192 : Word), [(0 : Word), 1, 8191]), (8192, [0, 2, 8191]), (0, [0xFFFFFFFF, 1]),
        (0, [8191])].map
        (fun p => result (blockAfter (exec .istriU (stateU p.1 p.2)))) = [1, 0, 1, 0] := by decide
/-- V-K3 -/
theorem test_hammingS :
    result (blockAfter (exec .hammingS (stateS 0 [1, 0xFFFFFFFF, 0, 5]))) = 3 := by decide
/-- V-K3: 8192 lifts to 0 and is not counted -/
theorem test_hammingU :
    result (blockAfter (exec .hammingU (stateU 8192 [8192, 1]))) = 1 := by decide
/-- V-K3 -/
theorem test_norm1S :
    let b := blockAfter (exec .norm1S (stateS 0 [1, 0xFFFFFFFF, 0xFFFFFFFF, 0]))
    (b.resultLo, b.resultHi) = (0xFFFFFFFF, 0xFFFFFFFF) := by decide
/-- V-K3: the lifted values are summed, not the raw ones -/
theorem test_norm1U :
    let b := blockAfter (exec .norm1U (stateU 8192 [8191]))
    (b.resultLo, b.resultHi) = (0xFFFFFFFF, 0xFFFFFFFF) := by decide
/-- V-K4 -/
theorem test_gateS :
    [[1, 0xFFFFFFFF], [(1 : Word), 3]].map
        (fun ws => statusWord (blockAfter (exec .gateS (stateS 0 ws)))) = [0x00, 0x32] := by decide
/-- V-K4 -/
theorem test_gateU :
    [[8191, 0, 1], [(5 : Word)]].map
        (fun ws => statusWord (blockAfter (exec .gateU (stateU 8192 ws)))) = [0x00, 0x32] := by
  decide
/-- 41_conversion.md R123 at a cell width of 16 bits: 8191 lifts to -1, sixteen ones. -/
theorem test_lift_narrow_cells :
    let c : Config := { Config.ntps1 with cellWidth := 16 }
    (match effectFor c .lift (setU c 2 8192 [8191, 5] (Block.reset c)) with
      | .ok b => Memory.words b.sCells 2
      | .error _ => []) = [0xFFFF, 5] := by decide
/-- 10_state.md R29 and 43_keystream.md R151 at a register width of 64 bits: four SEED registers hold
the bytes 0 .. 31, and the key words are those of seed C. -/
theorem test_key_words_wide_registers :
    let seed : Vector (BitVec 64) 4 :=
      #v[0x0706050403020100, 0x0F0E0D0C0B0A0908, 0x1716151413121110, 0x1F1E1D1C1B1A1918]
    ({ Config.ntps1 with regWidth := 64 } : Config).seedRegs = 4 ∧
    keyWords seed = #v[0x03020100, 0x07060504, 0x0B0A0908, 0x0F0E0D0C, 0x13121110, 0x17161514,
      0x1B1A1918, 0x1F1E1D1C] := by decide
/-- V-S1, seed C: every seed byte differs, so the order of the key words and of their bytes shows. -/
theorem test_keystream_seedC :
    keystream Config.ntps1
      #v[0x03020100, 0x07060504, 0x0B0A0908, 0x0F0E0D0C, 0x13121110, 0x17161514, 0x1B1A1918,
        0x1F1E1D1C] 21 = 0x7E50135B8D3CCD94 := by
  decide +kernel
/-- 43_keystream.md R151: the counter's words of block 2^32 + 5. -/
theorem test_block_counter :
    let x := chachaInit (Vector.replicate 8 0) (2 ^ 32 + 5)
    (x[12], x[13], x[14]) = (5, 1, 0) := by decide
/-- V-S1, seed B -/
theorem test_keystream_seedB :
    keystream Config.ntps1 (Vector.replicate 8 0x04040404) 21 = 0x56AD5AC8F345F571 := by
  decide +kernel
/-- V-T1, d = 4 -/
theorem test_sampleT :
    let b := blockAfter (exec .sampleT (stateD 4))
    (sFirst 5 b, b.sDeg, b.sMod) = ([1, 0xFFFFFFFF, 0, 0, 0], 4, 8192) := by decide +kernel
/-- V-T1, d = 1 -/
theorem test_sampleT_invalid :
    statusWord (blockAfter (exec .sampleT (stateD 1))) = 0x22 := by decide
/-- V-T1, d = 4: t = -1, so the even indices are negated -/
theorem test_sampleTP :
    sFirst 5 (blockAfter (exec .sampleTP (stateD 4))) = [0xFFFFFFFF, 0xFFFFFFFF, 0, 0, 0] := by
  decide +kernel
/-- V-T7 -/
theorem test_sampleTU :
    let b := blockAfter (exec .sampleTU (stateD 4))
    (uFirst 5 b, b.uMod, b.sDeg) = ([1, 8191, 0, 0, 0], 8192, 0) := by decide +kernel
/-- V-T7 -/
theorem test_sampleTPU :
    uFirst 5 (blockAfter (exec .sampleTPU (stateD 4))) = [8191, 8191, 0, 0, 0] := by
  decide +kernel
/-- V-U1, the first two coefficients -/
theorem test_uniform :
    let b := blockAfter (exec .uniform (stateD 2))
    (uFirst 3 b, b.uDeg, b.uMod) = ([6262, 3552, 0], 2, 8192) := by decide +kernel
/-- V-U2 -/
theorem test_uniform_function :
    uVec Config.ntps1 (Vector.replicate 8 0) 2 65536 = [47222, 44512] := by
  decide +kernel

/-! ## Host accesses, one step each -/

/-- One write of `v` at `off` from the block `s`. -/
def afterWrite (s : State) (off : Offset) (v : Word) : Block :=
  blockAfter (step (pending [.write .w32 off v] s))

/-- V-H1: 702 is dropped with HAZ, 701 is accepted. -/
theorem test_degree_limit :
    let b := afterWrite State.reset 0x014 702
    (b.degree, statusWord b, (afterWrite State.reset 0x014 701).degree,
      (afterWrite State.reset 0x048 0xFFFFFFFF).haz) = (701, 0x04, 701, true) := by decide
/-- V-H1: bit 2 clears HAZ, bits 0 and 1 do nothing. -/
theorem test_status_write :
    let s := stateWith fun b => { b with haz := true }
    (statusWord (afterWrite s 0x00C 0x4), statusWord (afterWrite s 0x00C 0x3)) = (0x00, 0x04) := by
  decide
/-- V-E3: in an error a CMD write is dropped, a cell write is accepted, CTRL resets. -/
theorem test_after_error :
    let s := stateWith fun b => { b with err := true, errCode := .trinaryViolation }
    (statusWord (afterWrite s 0x010 0x01), statusWord (afterWrite s 0x1000 7),
      sFirst 1 (afterWrite s 0x1000 7), afterWrite s 0x008 1)
      = (0x36, 0x32, [7], State.reset.blk) := by decide
/-- P1: ID, HWCFG and DEGREE read through the bus; V-H1: reserved offsets read 0. -/
theorem test_reads :
    [0x000, 0x004, 0x014, 0x01C, 0x0FFC, 0x1AF4, 0x2FFC].map
        (fun off => match step (pending [.read .w32 off] State.reset) with
          | .next t => t.env.replies
          | .fault _ => []
          | .refused _ => [])
      = [[0x4E545053], [0x02BD02BD], [701], [0], [0], [0], [0]] := by decide
/-- 70_reset_and_hazards.md H1 and H3: while BUSY a CMD write and a seed write are dropped. -/
theorem test_busy_writes :
    let s := busyWith 0x20 2 State.reset
    ((afterWrite s 0x010 0x01).lcmd, (afterWrite s 0x010 0x01).haz,
      (afterWrite s 0x020 0x11111111).seed, (afterWrite s 0x020 0x11111111).haz)
      = (0x20, true, Vector.replicate 8 0, true) := by decide
/-- 30_encoding.md R89: `SEED` writes SEED0 = b0 | b1 << 8 | b2 << 16 | b3 << 24 (V-S1, seed C). -/
theorem test_seed_statement :
    (expand (.seed ((List.range 32).map (BitVec.ofNat 8)))).head?
      = some (.write .w32 0x020 0x03020100) := by decide
/-- 30_encoding.md R92: while BUSY reads 1 the WAIT stays. -/
theorem test_wait_polls :
    (match step (pending [.wait] (busyWith 0x20 2 State.reset)) with
      | .next t => (t.env.inputs, t.env.replies, t.env.hostTurns)
      | .fault _ => ([], [], 0)
      | .refused _ => ([], [], 0)) = ([.wait], [0x01], 1) := by decide
/-- With nothing to do the machine keeps its state (60_exceptions.md R220). -/
theorem test_idle : step State.reset = .next State.reset := by rfl

/-- An offset given as a number. -/
def offset (o : Nat) : Offset := BitVec.ofNat 14 o

/-! ## Witnesses: states and operands that meet the hypotheses of the statements -/

/-- UnlistedWordsRaiseIllegalCommand: its hypotheses, at the ends of every range of words. -/
theorem witness_illegal_word :
    ∀ w ∈ [0x00, 0x05, 0x07, 0x0A, 0x0F, 0x16, 0x17, 0x1A, 0x1F, 0x24, 0x27, 0x29, 0x2F, 0x31, 0xFF,
        0x101, 0xFF28, 0xB30, 0xFF30, 0x10001, 0xFFFFFFFF],
      EngineNext (State.reset.withFetchWord 32 w) ∧
        Unlisted (State.reset.withFetchWord 32 w).blk.lcmd := by decide
/-- UnlistedWordsRaiseIllegalCommand: listed words next to the ranges are not unlisted. -/
theorem witness_listed_words :
    ∀ row ∈ opcodeMap, ¬ Unlisted row.1 := by decide
/-- StepRunsTheDecodedCommand, no turns left. -/
theorem witness_step_decoded :
    EngineNext (State.reset.withFetchWord 32 0x08) ∧
      decode (State.reset.withFetchWord 32 0x08).blk.lcmd = .ok .lift := by decide
/-- StepRunsTheDecodedCommand, no inputs left. -/
theorem witness_step_decoded_no_inputs :
    EngineNext (busyWith 0x08 3 State.reset) ∧
      decode (busyWith 0x08 3 State.reset).blk.lcmd = .ok .lift := by decide
/-- SeedStatementLoadsTheSeedBytes. -/
theorem witness_seed_statement :
    (List.replicate 32 (4 : Byte)).length = 32 ∧
    (pending (expand (.seed (List.replicate 32 4)) ++ [.wait]) State.reset).blk.phase = .idle ∧
    (pending (expand (.seed (List.replicate 32 4)) ++ [.wait]) State.reset).env.inReset = false ∧
    (pending (expand (.seed (List.replicate 32 4)) ++ [.wait]) State.reset).env.inputs
      = expand (.seed (List.replicate 32 4)) ++ [.wait] :=
  ⟨List.length_replicate, rfl, rfl, rfl⟩
/-- The statements about another PARAM_N: 95_test_vectors.md V-P2's configuration. -/
theorem witness_other_degree : ({ Config.ntps1 with paramN := 509 } : Config).paramN ≠ 701 ∧
    Config.Legal { Config.ntps1 with paramN := 509 } := by decide
/-- ZeroBuildsTheZeroPolynomial at DEGREE 0. -/
theorem witness_zero_degree : (stateD 0).blk.degree = 0 := by decide
/-- InitBuildsTheEmptyPolynomial: both buffers are empty at reset. -/
theorem witness_empty_buffers : State.reset.blk.sDeg = 0 ∧ State.reset.blk.uDeg = 0 := by decide
/-- IstriTellsWhetherEveryCoefficientIsTrinary and GatePassesExactlyTheTrinaryPolynomials: S
trinary, S not, U trinary, U not. -/
theorem witness_trinary :
    (∀ i, i < (stateS 0 [1, 0xFFFFFFFF]).blk.sDeg.toNat →
      IsTrit (sInt (stateS 0 [1, 0xFFFFFFFF]).blk i)) ∧
    (¬ ∀ i, i < (stateS 0 [1, 3]).blk.sDeg.toNat → IsTrit (sInt (stateS 0 [1, 3]).blk i)) ∧
    (∀ i, i < (stateU 8192 [8191, 0, 1]).blk.uDeg.toNat →
      IsTrit (sv (stateU 8192 [8191, 0, 1]).blk i)) ∧
    (¬ ∀ i, i < (stateU 8192 [5]).blk.uDeg.toNat → IsTrit (sv (stateU 8192 [5]).blk i)) := by
  decide
/-- UnsignedStatisticsAreThoseOfTheLiftedPolynomial, at the largest degree. -/
theorem witness_lifted_statistics :
    (stateWith fun b => { b with uDeg := 701 }).blk.uDeg.toNat ≤ 701 ∧
      ∃ a, exec .lift (stateWith fun b => { b with uDeg := 701 }) = .next a :=
  ⟨by decide, _, rfl⟩
/-- LiftAndDownAreInverse: integer domains at their ends, for the least and greatest q. -/
theorem witness_inverse_law :
    (1 ≤ (1 : Int) ∧ (1 : Int) < 4294967296 ∧ 0 ≤ (0 : Int) ∧ (0 : Int) < 1 ∧
      -(1 : Int) < 2 * 0 ∧ 2 * (0 : Int) ≤ 1) ∧
    ((4294967295 : Int) < 4294967296 ∧ (4294967294 : Int) < 4294967295 ∧
      -(4294967295 : Int) < 2 * (-2147483647) ∧ 2 * (2147483647 : Int) ≤ 4294967295) := by decide
/-- LiftAndDownAreInverse: words in the domain. -/
theorem witness_inverse_law_words :
    (8191 : Word).toNat < (8192 : Word).toNat ∧
    -((8192 : Word).toNat : Int) < 2 * (0xFFFFF001 : Word).toInt ∧
    2 * (0xFFFFF001 : Word).toInt ≤ (8192 : Word).toNat ∧
    2 * (4096 : Word).toInt ≤ (8192 : Word).toNat := by decide
/-- LiftThenDownRestoresTheUnsignedPolynomial. -/
theorem witness_lift_then_down :
    (∀ i, i < (stateU 8192 [0, 4096, 8191]).blk.uDeg.toNat →
      uNat (stateU 8192 [0, 4096, 8191]).blk i
        < (stateU 8192 [0, 4096, 8191]).blk.uMod.toNat) ∧
    ∃ a t, exec .lift (stateU 8192 [0, 4096, 8191]) = .next a ∧ exec .down a = .next t :=
  ⟨by decide, _, _, rfl, rfl⟩
/-- DownThenLiftRestoresTheSignedPolynomial. -/
theorem witness_down_then_lift :
    (∀ i, i < (stateS 8192 [0xFFFFF001, 4096]).blk.sDeg.toNat →
      -((stateS 8192 [0xFFFFF001, 4096]).blk.sMod.toNat : Int)
          < 2 * sInt (stateS 8192 [0xFFFFF001, 4096]).blk i ∧
        2 * sInt (stateS 8192 [0xFFFFF001, 4096]).blk i
          ≤ (stateS 8192 [0xFFFFF001, 4096]).blk.sMod.toNat) ∧
    ∃ a t, exec .down (stateS 8192 [0xFFFFF001, 4096]) = .next a ∧ exec .lift a = .next t :=
  ⟨by decide, _, _, rfl, rfl⟩
/-- QuarterRoundMixesItsFourWords, and an index outside the four. -/
theorem witness_quarter_round :
    ([3, 4, 9, 14] : List (Fin 16)).Nodup ∧ (15 : Fin 16) ∉ ([3, 4, 9, 14] : List (Fin 16)) := by
  decide
/-- KeystreamBlocksMixTheSeedAndTheCounter: the first and the last block its counter clause covers. -/
theorem witness_block_numbers : 0 < 2 ^ 64 ∧ 2 ^ 64 - 1 < 2 ^ 64 := by decide
/-- The statements about a command's next state: every command has one, here from reset. -/
theorem witness_exec_next : ∀ i : Instr, ∃ t, exec i State.reset = .next t := by
  intro i
  cases i <;> exact ⟨_, rfl⟩
/-- The sampler statements: DEGREE at the ends of 2 .. 701, and below 2. -/
theorem witness_sampler_degrees :
    2 ≤ (stateD 2).blk.degree.toNat ∧ (stateD 2).blk.degree.toNat ≤ 701 ∧
    2 ≤ State.reset.blk.degree.toNat ∧ State.reset.blk.degree.toNat ≤ 701 ∧
    (stateD 1).blk.degree.toNat < 2 ∧ (stateD 0).blk.degree.toNat < 2 := by decide
/-- TPlusHasTheAbsoluteCorrelation and CorrelationSumOfATVector: d = 2 and d = 3. -/
theorem witness_correlation_degrees :
    2 ≤ 2 ∧ 3 ≤ 3 ∧ 0 ≤ corrSum (tVec Config.ntps1 (Vector.replicate 8 0) 2) := by decide
/-- SampledPolynomialsAreTrinaryWithZeroTop: another state with the same seed and DEGREE. -/
theorem witness_same_seed :
    (stateWith fun b => { b with dlabel := 5 }).blk.seed = State.reset.blk.seed ∧
    (stateWith fun b => { b with dlabel := 5 }).blk.degree = State.reset.blk.degree ∧
    ∃ t t', exec .sampleTP State.reset = .next t ∧
      exec .sampleTP (stateWith fun b => { b with dlabel := 5 }) = .next t' :=
  ⟨by decide, by decide, _, _, rfl, rfl⟩
/-- ModulusCheckAcceptsExactlyThePowersOfTwo: both ends of the powers, and numbers that are none. -/
theorem witness_moduli :
    (∃ k, k ≤ 16 ∧ 1 = 2 ^ k) ∧ (∃ k, k ≤ 16 ∧ 65536 = 2 ^ k) ∧
    (¬ ∃ k, k ≤ 16 ∧ 0 = 2 ^ k) ∧ (¬ ∃ k, k ≤ 16 ∧ 131072 = 2 ^ k) := by
  refine ⟨⟨0, by decide⟩, ⟨16, by decide⟩, ?_, ?_⟩
  · rintro ⟨k, -, h⟩
    exact (Nat.two_pow_pos k).ne h
  · rintro ⟨k, hk, h⟩
    have := Nat.pow_le_pow_right (n := 2) (by decide) hk
    omega

/-- A state in error, idle, with `is` pending. -/
def erred (is : List Input) : State :=
  pending is (stateWith fun b => { b with err := true, errCode := .illegalCommand })

/-- ErrorStaysUntilReset: a dropped CMD write in a state with an error recorded. -/
theorem witness_error_stays :
    Safety.Inv (erred [.write .w32 0x010 1]) ∧ (erred [.write .w32 0x010 1]).blk.err = true ∧
      ∃ t, step (erred [.write .w32 0x010 1]) = .next t :=
  ⟨⟨⟨by decide, by decide, by decide, by decide, by decide, by decide, by decide⟩, by decide⟩,
    by decide, _, rfl⟩
/-- StatusFieldsAndWrites: both values of bit 2, IDLE and BUSY. -/
theorem witness_status_write :
    HostNext (pending [.write .w32 0x00C 4] State.reset) (.write .w32 0x00C 4) ∧
    HostNext (pending [.write .w32 0x00C 3] (busyWith 0x20 1 State.reset)) (.write .w32 0x00C 3) ∧
    (0x00C : Offset).toNat = 0x00C ∧ (4 : Word).getLsbD 2 = true ∧ (3 : Word).getLsbD 2 = false := by
  decide
/-- ReadsReturnTheHeldWordAndChangeNothing: a stable offset while BUSY, an unstable one while IDLE,
at the ends of the ranges, and CMD. -/
theorem witness_reads :
    HostNext (pending [.read .w32 0x03C] (busyWith 0x20 1 State.reset)) (.read .w32 0x03C) ∧
    HostNext (pending [.read .w32 0x2AF0] State.reset) (.read .w32 0x2AF0) ∧
    HostNext (pending [.read .w32 0x010] (busyWith 0x20 1 State.reset)) (.read .w32 0x010) ∧
    Answered 0x010 ∧ Answered 0x03C ∧ Answered 0x2AF0 ∧ Answered 0x2FFC ∧
    ¬ UnstableOffset 0x03C ∧ ¬ UnstableOffset 0x058 ∧ ¬ UnstableOffset 0x1AF4 ∧
    UnstableOffset 0x040 ∧ UnstableOffset 0x2AF0 := by decide
/-- CommandWriteIsAcceptedWhenIdleAndNoError: accepted, dropped while BUSY, dropped in error. -/
theorem witness_cmd_write :
    HostNext (pending [.write .w32 0x010 0xFFFFFFFF] State.reset) (.write .w32 0x010 0xFFFFFFFF) ∧
    State.reset.blk.phase = .idle ∧ State.reset.blk.err = false ∧
    HostNext (pending [.write .w32 0x010 1] (busyWith 0x20 1 State.reset)) (.write .w32 0x010 1) ∧
    HostNext (erred [.write .w32 0x010 1]) (.write .w32 0x010 1) ∧
    (0x010 : Offset).toNat = 0x010 := by decide
/-- HazardousWritesAreDroppedAndRecorded: each hazard, at the ends of its offsets. -/
theorem witness_hazards :
    (∀ o ∈ [(0x010 : Nat), 0x014, 0x018, 0x020, 0x03C, 0x048, 0x054, 0x1000, 0x1AF0, 0x2000,
        0x2AF0],
      HostNext (pending [.write .w32 (offset o) 5] (busyWith 0x20 1 State.reset)) (.write .w32 (offset o) 5) ∧
        (offset o).toNat % 4 = 0 ∧ ((offset o).toNat = 0x010 ∨ StoredOffset (offset o).toNat)) ∧
    (∀ o ∈ [(0x014 : Nat), 0x048, 0x050],
      HostNext (pending [.write .w32 (offset o) 702] State.reset) (.write .w32 (offset o) 702) ∧
        DegreeOffset (offset o).toNat) ∧
    HostNext (erred [.write .w32 0x010 1]) (.write .w32 0x010 1) ∧
    (stateWith setHazard).blk.haz = true := by decide
/-- HazardousWritesAreDroppedAndRecorded: a step from a state with HAZ set. -/
theorem witness_hazard_stays : ∃ t, step (stateWith setHazard) = .next t := ⟨_, rfl⟩
/-- AcceptedWritesStoreTheirValueAndNothingElse: the ends of the offsets, the largest degree. -/
theorem witness_accepted_writes :
    (∀ o ∈ [(0x014 : Nat), 0x018, 0x020, 0x03C, 0x048, 0x054, 0x1000, 0x1AF0, 0x2000, 0x2AF0],
      HostNext (pending [.write .w32 (offset o) 701] State.reset) (.write .w32 (offset o) 701) ∧
        (offset o).toNat % 4 = 0 ∧ StoredOffset (offset o).toNat ∧ (701 : Word).toNat ≤ 701) ∧
    State.reset.blk.phase = .idle ∧ Memory.wf Config.ntps1 State.reset.blk.sCells = true ∧
    Memory.wf Config.ntps1 State.reset.blk.uCells = true := by decide
/-- ReadOnlyAndReservedOffsetsIgnoreWrites: the ends of the reserved ranges, IDLE and BUSY. -/
theorem witness_ignored_writes :
    (∀ o ∈ [(0x01C : Nat), 0x058, 0xFFC, 0x1AF4, 0x1FFC, 0x2AF4, 0x2FFC],
      HostNext (pending [.write .w32 (offset o) 5] State.reset) (.write .w32 (offset o) 5) ∧
        (offset o).toNat % 4 = 0 ∧ ReservedOffset (offset o).toNat) ∧
    ∀ o ∈ [(0x000 : Nat), 0x004, 0x040, 0x044],
      HostNext (pending [.write .w32 (offset o) 5] (busyWith 0x20 1 State.reset)) (.write .w32 (offset o) 5) ∧
        (offset o).toNat % 4 = 0 := by decide
/-- OtherAccessesAreRefused: each ground, at the ends of the offsets. -/
theorem witness_refused :
    HostNext (pending [.read .w8 0x000] State.reset) (.read .w8 0x000) ∧
    HostNext (pending [.write .w32 0x2FFE 0] State.reset) (.write .w32 0x2FFE 0) ∧
    HostNext (pending [.read .w32 0x3000] State.reset) (.read .w32 0x3000) ∧
    (0x2FFE : Offset).toNat < 0x3000 ∧ (0x2FFE : Offset).toNat % 4 ≠ 0 ∧
    0x3000 ≤ (0x3000 : Offset).toNat := by decide
/-- WindowBytesAreLittleEndianLanes. -/
theorem witness_lanes : 0x1AF0 % 4 = 0 ∧ 3 < 4 ∧ 0x3FFF < 0x4000 := by decide
/-- OperandsAreKeptWhileBusy. -/
theorem witness_operands_kept :
    (pending [.write .w32 0x020 5] (busyWith 0x20 1 State.reset)).blk.phase = .busy ∧
    engineTurn (pending [.write .w32 0x020 5] (busyWith 0x20 1 State.reset)) = false ∧
    ∃ t, step (pending [.write .w32 0x020 5] (busyWith 0x20 1 State.reset)) = .next t :=
  ⟨by decide, by decide, _, rfl⟩
/-- SoftResetRestoresTheResetState: both values of bit 0, BUSY and in error. -/
theorem witness_soft_reset :
    HostNext (pending [.write .w32 0x008 1] (busyWith 0x20 1 State.reset)) (.write .w32 0x008 1) ∧
    HostNext (erred [.write .w32 0x008 2]) (.write .w32 0x008 2) ∧
    (1 : Word).getLsbD 0 = true ∧ (2 : Word).getLsbD 0 = false ∧
    (0x008 : Offset).toNat = 0x008 := by decide

/-- A state whose reset input is asserted, with `is` pending. -/
def asserted (is : List Input) : State :=
  { State.reset with env := { State.reset.env with inReset := true, inputs := is } }

/-- HardResetAnswersNothingAndEndsInTheResetState. -/
theorem witness_hard_reset :
    (asserted [.wait]).env.inReset = true ∧ (asserted [.wait]).env.inputs = .wait :: [] ∧
    (asserted [.resetRelease, .wait]).env.inputs = .resetRelease :: [.wait] ∧
    HostNext (pending [.resetAssert] State.reset) .resetAssert := by decide
/-- EveryStepKeepsTheInvariant: a state other than reset that meets the invariant and steps. -/
theorem witness_invariant :
    Safety.Inv (busyWith 0x28 0 (stateU 8192 [5, 0, 8191])) ∧
      ∃ t, step (busyWith 0x28 0 (stateU 8192 [5, 0, 8191])) = .next t :=
  ⟨⟨⟨by decide, by decide, by decide, by decide, by decide, by decide, by decide⟩, by decide⟩,
    _, rfl⟩
/-- DutifulHostCausesNoBusyHazardAndReadsNoDraw: a poll, a dutiful read while BUSY, a read of
RESULT after the WAIT. -/
theorem witness_duty :
    Safety.DutyKept (pending [.read .w32 0x00C, .wait, .read .w32 0x040]
      (busyWith 0x20 1 State.reset)) ∧
    engineTurn (pending [.read .w32 0x00C, .wait, .read .w32 0x040]
      (busyWith 0x20 1 State.reset)) = false ∧
    ¬ Safety.DutyKept (pending [.read .w32 0x040] (busyWith 0x20 1 State.reset)) ∧
    ∃ t, step (pending [.read .w32 0x00C, .wait, .read .w32 0x040]
      (busyWith 0x20 1 State.reset)) = .next t :=
  ⟨by unfold Safety.DutyKept; decide, by decide, by unfold Safety.DutyKept; decide, _, rfl⟩
/-- WaitEndsAfterTheEngineStep. -/
theorem witness_wait :
    (pending [.wait] (busyWith 0x20 2 State.reset)).blk.phase = .busy ∧
    (pending [.wait] (busyWith 0x20 2 State.reset)).env.inReset = false ∧
    (pending [.wait] (busyWith 0x20 2 State.reset)).env.inputs = .wait :: [] := by decide
/-- RunStatementPerformsItsCommand. -/
theorem witness_run :
    (pending (expand (.run (.byAlias .u2s)) ++ [.wait]) State.reset).blk.phase = .idle ∧
    (pending (expand (.run (.byAlias .u2s)) ++ [.wait]) State.reset).blk.err = false ∧
    (pending (expand (.run (.byAlias .u2s)) ++ [.wait]) State.reset).env.inReset = false ∧
    (pending (expand (.run (.byAlias .u2s)) ++ [.wait]) State.reset).env.inputs
      = expand (.run (.byAlias .u2s)) ++ [.wait] := by decide

end Sys2Proof.Tests
end

section
/-! The host's next access as a step (Claims.HostNext, Claims.Performs), and O44: a write to CMD. -/

namespace Sys2Proof.Proofs

open Sys2Proof Sys2Proof.Machine Sys2Proof.Claims

/-! ## The host's next access -/

/-- The state in which the head of the inputs has been taken and one host turn used up. -/
def inputTaken (s : State) : State :=
  { s with env := takeTurn { s.env with inputs := s.env.inputs.tail } }

/-- The step of `HostNext` is the performing of its input. -/
theorem step_of_hostNext {s : State} {i : Input} (h : HostNext s i) :
    step s = perform i (inputTaken s) := by
  obtain ⟨-, hturn, hhead⟩ := h
  obtain ⟨rest, hin⟩ := List.head?_eq_some_iff.mp hhead
  have hengine : engineTurn s = false := by
    rcases hturn with hidle | hleft
    · simp [engineTurn, busyBit, hidle]
    · simp [engineTurn, hleft, hin]
  simp [step, hengine, hin, inputTaken]

/-- An answered write that comes next is the write of its target. -/
theorem step_of_hostNext_write {s : State} {off : Offset} {v : Word}
    (h : HostNext s (.write .w32 off v)) (ha : Answered off) :
    step s = .next
      (writeInput Config.ntps1 (targetAt Config.ntps1 off.toNat) v (inputTaken s)) := by
  have hanswered : refusalOf Config.ntps1 .w32 off = none := refusalOf_eq_none.mpr ⟨rfl, ha⟩
  have hreset : (inputTaken s).env.inReset = false := h.1
  rw [step_of_hostNext h]
  simp [perform, hostAccess, hreset, hanswered]

@[simp] theorem writeInput_inputs (c : Config) (t : Target) (v : Word) (s : State) :
    (writeInput c t v s).env.inputs = s.env.inputs := by
  unfold writeInput
  dsimp only
  split <;> rfl

@[simp] theorem writeInput_replies (c : Config) (t : Target) (v : Word) (s : State) :
    (writeInput c t v s).env.replies = s.env.replies := by
  unfold writeInput
  dsimp only
  split <;> rfl

/-- An answered write that comes next leaves the block that the write of its target gives. -/
theorem performs_write {s : State} {off : Offset} {v : Word}
    (h : HostNext s (.write .w32 off v)) (ha : Answered off) :
    Performs s (writeTarget Config.ntps1 v (targetAt Config.ntps1 off.toNat) s.blk) :=
  ⟨_, step_of_hostNext_write h ha, rfl, by simp [inputTaken], by simp [inputTaken],
    by simp [inputTaken]⟩

/-! ## O44: a write to CMD -/

/-- A CMD write is accepted exactly when BUSY = 0 and ERR = 0 (10_state.md R26). -/
theorem acceptsCommand_iff {b : Block} :
    acceptsCommand b = true ↔ b.phase = .idle ∧ b.err = false := by
  cases hp : b.phase <;> simp [acceptsCommand, busyBit, hp]

theorem writeCmd_of_accepted {b : Block} {v : Word} (h : b.phase = .idle ∧ b.err = false) :
    writeCmd v b = { b with phase := .busy, lcmd := v } :=
  if_pos (acceptsCommand_iff.mpr h)

theorem writeCmd_of_not_accepted {b : Block} {v : Word}
    (h : ¬ (b.phase = .idle ∧ b.err = false)) :
    writeCmd v b = { b with haz := true } :=
  if_neg (mt acceptsCommand_iff.mp h)

/-- A write to CMD that comes next leaves the block `writeCmd` gives. -/
theorem performs_writeCmd {s : State} {off : Offset} {v : Word}
    (h : HostNext s (.write .w32 off v)) (hoff : off.toNat = 0x010) :
    Performs s (writeCmd v s.blk) := by
  have hperf := performs_write h ⟨by omega, by omega⟩
  have htarget : targetAt Config.ntps1 0x010 = .reg .cmd := targetAt_regOffset _ .cmd
  rwa [hoff, htarget] at hperf

/-- Settles O44: the step is `writeCmd`, whose one test is BUSY = 0 and ERR = 0. -/
theorem commandWriteIsAcceptedWhenIdleAndNoError :
    Obligations.CommandWriteIsAcceptedWhenIdleAndNoError := by
  refine ⟨fun s off v h hoff => ⟨fun hfree => ?_, fun hnot => ?_⟩, fun b => rfl⟩
  · rw [← writeCmd_of_accepted hfree]
    exact performs_writeCmd h hoff
  · rw [← writeCmd_of_not_accepted hnot]
    exact performs_writeCmd h hoff

end Sys2Proof.Proofs
end

section
/-! O39: a command of one buffer neither reads nor writes the other (10_state.md R40). The one idea:
the command's effect commutes with replacing the other buffer's polynomial. -/

namespace Sys2Proof.Proofs

open Sys2Proof Sys2Proof.Machine Sys2Proof.Claims

/-! ## From a command's effect to its engine step -/

/-- Changing the block by `f` before the command's effect is changing it by `f` afterwards, and
leaves the raised error as it is: the command does not read what `f` changes. -/
def EffectCommutes (f : Block → Block) (i : Instr) : Prop :=
  ∀ b, effect Config.ntps1 i (f b) = (effect Config.ntps1 i b).map f

/-- `f` leaves alone what the end of an engine step writes: ERR, ERRCODE and PHASE. -/
def SettleCommutes (f : Block → Block) : Prop :=
  (∀ b, finish (f b) = f (finish b)) ∧ ∀ e b, raiseError e (f b) = f (raiseError e b)

theorem withS_settleCommutes (d q : Word) (m : Memory) : SettleCommutes (withS d q m) :=
  ⟨fun _ => rfl, fun _ _ => rfl⟩

theorem withU_settleCommutes (d q : Word) (m : Memory) : SettleCommutes (withU d q m) :=
  ⟨fun _ => rfl, fun _ _ => rfl⟩

/-- A command whose effect commutes with `f` has an engine step that does. -/
theorem exec_commutes {f : Block → Block} {i : Instr} (hf : SettleCommutes f)
    (hi : EffectCommutes f i) {s t : State} (h : exec i s = .next t) :
    exec i { s with blk := f s.blk } = .next { t with blk := f t.blk } := by
  obtain ⟨hfinish, hraise⟩ := hf
  obtain ⟨b, hb, rfl⟩ | ⟨e, he, rfl⟩ := exec_cases h
  · have hfb : effect Config.ntps1 i (f s.blk) = .ok (f b) := by rw [hi, hb]; rfl
    rw [exec_of_ok hfb, hfinish]
  · have hfe : effect Config.ntps1 i (f s.blk) = .error e := by rw [hi, he]; rfl
    rw [exec_of_error hfe, hraise]

/-! ## The commands that test before they write -/

variable {d q : Word} {m : Memory}

theorem gateS_withU (c : Config) (b : Block) :
    gateS c (withU d q m b) = (gateS c b).map (withU d q m) := by
  have hcs : sCoeffs (withU d q m b) = sCoeffs b := rfl
  simp only [gateS, hcs]
  split <;> rfl

theorem gateU_withS (c : Config) (b : Block) :
    gateU c (withS d q m b) = (gateU c b).map (withS d q m) := by
  have hcs : uCoeffs (withS d q m b) = uCoeffs b := rfl
  simp only [gateU, hcs]
  split <;> rfl

/-- A sampler into S reads of U only what its coefficient vector does. -/
theorem sampleIntoS_withU (c : Config) {cs : Block → List Int} {b : Block}
    (hcs : cs (withU d q m b) = cs b) :
    sampleIntoS c cs (withU d q m b) = (sampleIntoS c cs b).map (withU d q m) := by
  have hq : samplerModulus c (withU d q m b) = samplerModulus c b := rfl
  simp only [sampleIntoS, hcs, hq]
  cases samplerModulus c b <;> rfl

/-- A sampler into U reads of S only what its coefficient vector does. -/
theorem sampleIntoU_withS (c : Config) {cs : Block → List Int} {b : Block}
    (hcs : cs (withS d q m b) = cs b) :
    sampleIntoU c cs (withS d q m b) = (sampleIntoU c cs b).map (withS d q m) := by
  have hq : samplerModulus c (withS d q m b) = samplerModulus c b := rfl
  simp only [sampleIntoU, hcs, hq]
  cases samplerModulus c b <;> rfl

theorem uniformAt_withS (c : Config) (n : Nat) (b : Block) :
    uniformAt c n (withS d q m b) = (uniformAt c n b).map (withS d q m) := by
  simp only [uniformAt]
  split <;> rfl

/-! ## The commands by family -/

/-- A PARAM command reads nothing of the block and writes RESULT only. -/
theorem paramCommands_effectCommutes {f : Block → Block}
    (hf : ∀ v b, setResult v (f b) = f (setResult v b)) :
    ∀ i ∈ paramCommands, EffectCommutes f i := by
  have hanswer : ∀ v b, (.ok (setResult v (f b)) : Effect) = Except.map f (.ok (setResult v b)) :=
    fun v b => congrArg Except.ok (hf v b)
  simp only [paramCommands, List.forall_mem_cons]
  refine ⟨?_, ?_, ?_, ?_, ?_, ?_, ?_, ?_, ?_, ?_, ?_, List.forall_mem_nil _⟩
  all_goals exact hanswer _

theorem sOnly_effectCommutes_withU : ∀ i ∈ sOnly, EffectCommutes (withU d q m) i := by
  simp only [sOnly, List.forall_mem_cons]
  refine ⟨?zeroS, ?initS, ?istriS, ?hammingS, ?norm1S, ?gateS, ?sampleT, ?sampleTP,
    List.forall_mem_nil _⟩
  case gateS => exact fun b => gateS_withU Config.ntps1 b
  case sampleT | sampleTP => exact fun _ => sampleIntoS_withU _ rfl
  case zeroS | initS | istriS | hammingS | norm1S => exact fun _ => rfl

theorem uOnly_effectCommutes_withS : ∀ i ∈ uOnly, EffectCommutes (withS d q m) i := by
  simp only [uOnly, List.forall_mem_cons]
  refine ⟨?zeroU, ?initU, ?istriU, ?hammingU, ?norm1U, ?gateU, ?sampleTU, ?sampleTPU, ?uniform,
    List.forall_mem_nil _⟩
  case gateU => exact fun b => gateU_withS Config.ntps1 b
  case sampleTU | sampleTPU => exact fun _ => sampleIntoU_withS _ rfl
  case uniform => exact fun b => uniformAt_withS _ 8192 b
  case zeroU | initU | istriU | hammingU | norm1U => exact fun _ => rfl

/-! ## LIFT and DOWN -/

/-- LIFT always completes, with the S polynomial as its one write. -/
theorem exec_lift (s : State) :
    exec .lift s = .next { s with
      blk := finish (setS Config.ntps1 s.blk.uDeg s.blk.uMod
        ((uWords s.blk).map (liftWord s.blk.uMod)) s.blk) } :=
  exec_of_ok rfl

/-- DOWN always completes, with the U polynomial as its one write. -/
theorem exec_down (s : State) :
    exec .down s = .next { s with
      blk := finish (setU Config.ntps1 s.blk.sDeg s.blk.sMod
        ((sWords s.blk).map (downWord s.blk.sMod)) s.blk) } :=
  exec_of_ok rfl

/-- Settles O39: each command's effect commutes with replacing the buffer it does not own (a PARAM
command's with replacing either, one after the other), and LIFT and DOWN write their target only. -/
theorem bufferCommandsKeepToTheirOwnBuffer : Obligations.BufferCommandsKeepToTheirOwnBuffer := by
  refine ⟨?sOnly, ?uOnly, ?params, ?lift, ?down⟩
  case sOnly =>
    intro i hi s t d q m h
    exact exec_commutes (withU_settleCommutes d q m) (sOnly_effectCommutes_withU i hi) h
  case uOnly =>
    intro i hi s t d q m h
    exact exec_commutes (withS_settleCommutes d q m) (uOnly_effectCommutes_withS i hi) h
  case params =>
    intro i hi s t d q d' q' m m' h
    have hU := exec_commutes (withU_settleCommutes d' q' m')
      (paramCommands_effectCommutes (fun _ _ => rfl) i hi) h
    exact exec_commutes (withS_settleCommutes d q m)
      (paramCommands_effectCommutes (fun _ _ => rfl) i hi) hU
  case lift =>
    intro s t h
    cases (exec_lift s).symm.trans h
    exact ⟨rfl, rfl, rfl⟩
  case down =>
    intro s t h
    cases (exec_down s).symm.trans h
    exact ⟨rfl, rfl, rfl⟩

end Sys2Proof.Proofs
end

section
/-! O50: while BUSY an input that is no reset changes at most HAZ of the block (20_memory.md R73). -/

namespace Sys2Proof.Proofs

open Sys2Proof Sys2Proof.Machine Sys2Proof.Claims

/-- An offset names a register only if it is that register's offset (10_state.md R21). -/
theorem eq_regOffset_of_targetAt {c : Config} {off : Nat} {r : Reg}
    (h : targetAt c off = .reg r) : off = regOffset r := by
  unfold targetAt at h
  split_ifs at h
  split at h
  case h_1 r' hfind =>
    cases h
    have hoff : regOffset r = off := by simpa using List.find?_some hfind
    exact hoff.symm
  case h_2 => cases h

/-- From `b` to `b'` nothing but HAZ has changed. -/
def OnlyHazChanged (b b' : Block) : Prop := ∃ h, b' = { b with haz := h }

theorem OnlyHazChanged.refl (b : Block) : OnlyHazChanged b b := ⟨b.haz, rfl⟩

/-- While BUSY a write changes at most HAZ, or it is a write of CTRL with bit 0 = 1. -/
theorem writeTarget_onlyHazChanged {c : Config} {v : Word} {t : Target} {b : Block}
    (hbusy : b.phase = .busy) :
    OnlyHazChanged b (writeTarget c v t b) ∨ (t = .reg .ctrl ∧ v.getLsbD 0 = true) := by
  have hbit : busyBit b = true := by simp [busyBit, hbusy]
  obtain hkept | hset | ⟨-, hcleared⟩ | ⟨hctrl, hv, -⟩ := writeTarget_busy (c := c) (v := v) hbit
  · exact .inl ⟨b.haz, hkept⟩
  · exact .inl ⟨true, hset⟩
  · exact .inl ⟨false, hcleared⟩
  · exact .inr ⟨hctrl, hv⟩

/-- While BUSY a performed input changes at most HAZ of the block, or it is a reset. -/
theorem perform_onlyHazChanged {i : Input} {s t : State} (h : perform i s = .next t)
    (hbusy : s.blk.phase = .busy) : OnlyHazChanged s.blk t.blk ∨ IsReset i := by
  obtain ⟨off, -, -, -, rfl⟩ | ⟨off, v, rfl, -, -, rfl⟩ | ⟨-, -, rfl⟩ | ⟨hi, -⟩ | ⟨hi, -⟩ :=
    perform_cases h
  case inl =>
    rw [readInput_blk]
    exact .inl (.refl s.blk)
  case inr.inl =>
    rw [writeInput_blk]
    refine (writeTarget_onlyHazChanged hbusy).imp_right fun ⟨hctrl, hv⟩ => ?_
    exact .inr (.inr ⟨off, v, rfl, eq_regOffset_of_targetAt hctrl, hv⟩)
  case inr.inr.inl =>
    rw [waitInput_blk]
    exact .inl (.refl s.blk)
  case inr.inr.inr.inl => exact .inr (.inl hi)
  case inr.inr.inr.inr => exact .inr (.inr (.inl hi))

/-- Settles O50: a step that is not the engine's does nothing or performs the head of the inputs,
and an input performed while BUSY changes at most HAZ unless it is a reset. -/
theorem operandsAreKeptWhileBusy : Obligations.OperandsAreKeptWhileBusy := by
  intro s t hbusy hturn h
  obtain ⟨hengine, -⟩ | ⟨-, -, rfl⟩ | ⟨i, rest, -, hin, hperf⟩ := step_cases h
  · simp [hturn] at hengine
  · exact .inl (OnlyHazChanged.refl t.blk)
  · exact (perform_onlyHazChanged hperf hbusy).imp_right fun hreset => ⟨i, by simp [hin], hreset⟩

end Sys2Proof.Proofs
end

section
/-! The decoder against the encoder and the opcode map (30_encoding.md R80, R83 to R85), the
engine's step as a step (Claims.EngineNext), and O2, O3: the listed words and the illegal ones. -/

namespace Sys2Proof.Proofs

open Sys2Proof Sys2Proof.Machine Sys2Proof.Claims

/-! ## Decode and encode -/

/-- A word is its three fields, RSV first (30_encoding.md R80). -/
theorem wordRSV_append_wordSEL_append_wordOP (v : Word) :
    wordRSV v ++ wordSEL v ++ wordOP v = v := by
  ext k hk
  simp only [wordRSV, wordSEL, wordOP, BitVec.getElem_append, BitVec.getElem_extractLsb']
  split_ifs <;> grind

/-- A word with a command's fields is its encoding. -/
theorem eq_encode_of_fields {v : Word} {i : Instr} (hrsv : wordRSV v = 0)
    (hsel : wordSEL v = selOf i) (hop : wordOP v = opOf i) : v = encode i := by
  rw [← wordRSV_append_wordSEL_append_wordOP v, hrsv, hsel, hop, encode]

/-- The decoder answers a command exactly when RSV is 0 and it finds the command's row: by SEL for
OP = 0x30, by OP with SEL = 0 otherwise (30_encoding.md R84). -/
theorem decode_eq_ok_iff_lookup {v : Word} {i : Instr} :
    decode v = .ok i ↔ wordRSV v = 0 ∧
      ((wordOP v = 0x30 ∧ paramRows.lookup (wordSEL v) = some i) ∨
        (wordOP v ≠ 0x30 ∧ opcodeRows.lookup (wordOP v) = some i ∧ wordSEL v = 0)) := by
  unfold decode
  by_cases hrsv : wordRSV v = 0#16
  · by_cases hop : wordOP v = 0x30#8
    · cases paramRows.lookup (wordSEL v) <;> simp [hrsv, hop]
    · cases opcodeRows.lookup (wordOP v) <;> by_cases hsel : wordSEL v = 0#8 <;>
        simp [hrsv, hop, hsel]
  · simp [hrsv]

theorem mem_of_lookup_eq_some {rows : List (BitVec 8 × Instr)} {k : BitVec 8} {i : Instr}
    (h : rows.lookup k = some i) : (k, i) ∈ rows := by
  obtain ⟨before, after, rfl, -⟩ := List.lookup_eq_some_iff.mp h
  simp

/-- A row of the commands with SEL = 0 holds its command's OP (30_encoding.md R83). -/
theorem opcodeRows_fields : ∀ row ∈ opcodeRows, row.1 = opOf row.2 ∧ selOf row.2 = 0 := by decide

/-- A row of the PARAM commands holds its command's SEL (30_encoding.md R83). -/
theorem paramRows_fields : ∀ row ∈ paramRows, row.1 = selOf row.2 ∧ opOf row.2 = 0x30 := by decide

theorem decode_encode (i : Instr) : decode (encode i) = .ok i := by
  cases i <;> rfl

/-- A word that decodes to a command is that command's word, for the row found holds its fields. -/
theorem eq_encode_of_decode_eq_ok {v : Word} {i : Instr} (h : decode v = .ok i) : v = encode i := by
  obtain ⟨hrsv, ⟨hparam, hrow⟩ | ⟨-, hrow, hsel⟩⟩ := decode_eq_ok_iff_lookup.mp h
  · obtain ⟨hsel, hop⟩ := paramRows_fields _ (mem_of_lookup_eq_some hrow)
    exact eq_encode_of_fields hrsv hsel (hparam.trans hop.symm)
  · obtain ⟨hop, hzero⟩ := opcodeRows_fields _ (mem_of_lookup_eq_some hrow)
    exact eq_encode_of_fields hrsv (hsel.trans hzero.symm) hop

/-- Decode answers a command exactly for its encoding (30_encoding.md sections 1 to 3). -/
theorem decode_eq_ok_iff {v : Word} {i : Instr} : decode v = .ok i ↔ v = encode i :=
  ⟨eq_encode_of_decode_eq_ok, fun h => h ▸ decode_encode i⟩

/-- Settles O2: the map's words are its commands' encodings, and those decode to the commands. -/
theorem opcodeMapWordsDecodeAsListed : Obligations.OpcodeMapWordsDecodeAsListed := by
  have hrows : ∀ row ∈ opcodeMap, encode row.2.2 = row.1 ∧ row.2.2.mnemonic = row.2.1 := by decide
  refine ⟨rfl, fun row hrow => ?_⟩
  obtain ⟨hword, hname⟩ := hrows row hrow
  exact ⟨decode_eq_ok_iff.mpr hword.symm, hword, hname⟩

/-! ## The illegal words -/

/-- The OP values that 30_encoding.md R85 lists as assigned to no command. -/
def UnassignedOp (op : Nat) : Prop :=
  op = 0x00 ∨ (0x05 ≤ op ∧ op ≤ 0x07) ∨ (0x0A ≤ op ∧ op ≤ 0x0F) ∨ op = 0x16 ∨ op = 0x17 ∨
    (0x1A ≤ op ∧ op ≤ 0x1F) ∨ (0x24 ≤ op ∧ op ≤ 0x27) ∨ (0x29 ≤ op ∧ op ≤ 0x2F) ∨ 0x31 ≤ op

/-- R85's illegal words in the fields the decoder reads. -/
theorem unlisted_iff_fields {v : Word} :
    Unlisted v ↔ wordRSV v ≠ 0 ∨ UnassignedOp (wordOP v).toNat ∨
      (wordSEL v ≠ 0 ∧ wordOP v ≠ 0x30) ∨ (wordOP v = 0x30 ∧ 11 ≤ (wordSEL v).toNat) := by
  have hop : (wordOP v).toNat = v.toNat % 256 := by simp [wordOP]
  have hsel : (wordSEL v).toNat = v.toNat / 256 % 256 := by
    simp [wordSEL, Nat.shiftRight_eq_div_pow]
  have hrsv : (wordRSV v).toNat = v.toNat / 65536 := by
    simp [wordRSV, Nat.shiftRight_eq_div_pow]
    omega
  simp [Unlisted, UnassignedOp, ← BitVec.toNat_inj, hop, hsel, hrsv]

/-- The SEL values with a PARAM command are those up to 10. -/
theorem exists_lookup_paramRows_iff {sel : BitVec 8} :
    (∃ i, paramRows.lookup sel = some i) ↔ ¬ 11 ≤ sel.toNat := by
  rw [← Option.ne_none_iff_exists', Ne, List.lookup_eq_none_iff]
  simp [paramRows, ← BitVec.toNat_inj]
  omega

/-- The OP values with a row of their own are all but 0x30 and those of R85's list. -/
theorem exists_lookup_opcodeRows_iff {op : BitVec 8} :
    (∃ i, opcodeRows.lookup op = some i) ↔ op ≠ 0x30 ∧ ¬ UnassignedOp op.toNat := by
  rw [← Option.ne_none_iff_exists', Ne, List.lookup_eq_none_iff]
  simp [opcodeRows, UnassignedOp, ← BitVec.toNat_inj]
  omega

/-- The words that decode to a command, by their fields. -/
theorem exists_decode_eq_ok_iff {v : Word} :
    (∃ i, decode v = .ok i) ↔ wordRSV v = 0 ∧
      ((wordOP v = 0x30 ∧ ¬ 11 ≤ (wordSEL v).toNat) ∨
        (wordOP v ≠ 0x30 ∧ ¬ UnassignedOp (wordOP v).toNat ∧ wordSEL v = 0)) := by
  simp only [decode_eq_ok_iff_lookup, exists_and_left, exists_or, exists_and_right,
    exists_lookup_paramRows_iff, exists_lookup_opcodeRows_iff]
  tauto

/-- R85's words are exactly those the decoder finds no command for. -/
theorem unlisted_iff_decode_ne_ok {v : Word} : Unlisted v ↔ ∀ i, decode v ≠ .ok i := by
  have hparam : wordOP v = 0x30 → ¬ UnassignedOp (wordOP v).toNat := by
    intro h
    simp [h, UnassignedOp]
  rw [unlisted_iff_fields, ← not_exists, exists_decode_eq_ok_iff]
  tauto

/-! ## The engine's step -/

/-- The step of `EngineNext` is the engine's. -/
theorem step_of_engineNext {s : State} (h : EngineNext s) : step s = engineStep s := by
  obtain ⟨hbusy, hreset, hturn⟩ := h
  have hengine : engineTurn s = true := by simpa [engineTurn, busyBit, hbusy, hreset] using hturn
  simp [step, hengine]

/-- The engine's step of a word that decodes to no command is the error record of R85. -/
theorem engineStep_of_decode_ne_ok {s : State} (h : ∀ i, decode s.blk.lcmd ≠ .ok i) :
    engineStep s = illegalCommand s := by
  cases hd : decode s.blk.lcmd with
  | ok i => exact absurd hd (h i)
  | error r => simp [engineStep, hd]

/-- Settles O3: the illegal words are those the decoder finds no command for, hence no command's
encoding, and the engine's step of such a word is the error record alone. -/
theorem unlistedWordsRaiseIllegalCommand : Obligations.UnlistedWordsRaiseIllegalCommand := by
  refine ⟨rfl, fun v => ?_, fun s hnext hword => ?_⟩
  · simp only [unlisted_iff_decode_ne_ok, ne_eq, decode_eq_ok_iff]
  · rw [step_of_engineNext hnext, engineStep_of_decode_ne_ok (unlisted_iff_decode_ne_ok.mp hword)]
    rfl

end Sys2Proof.Proofs
end

section
/-! O5, O6: the host script's aliases and statements (30_encoding.md R86 to R91). -/

namespace Sys2Proof.Proofs

open Sys2Proof Sys2Proof.Machine Sys2Proof.Claims

/-- Settles O5: the eight spellings and the commands they stand for, each by evaluation. -/
theorem aliasesAssembleToTheirCommands : Obligations.AliasesAssembleToTheirCommands := rfl

/-- Settles O6: every clause is the equation of `expand` for its statement. -/
theorem scriptStatementsExpandToTheirAccesses :
    Obligations.ScriptStatementsExpandToTheirAccesses :=
  ⟨rfl, fun _ _ => rfl, fun _ _ => ⟨rfl, rfl⟩, fun _ => rfl, fun _ => ⟨rfl, rfl⟩,
    fun _ => ⟨rfl, rfl⟩, rfl⟩

end Sys2Proof.Proofs
end

section
/-! O8, O9: the parameter set queries (40_parameters.md R101 to R111). -/

namespace Sys2Proof.Proofs

open Sys2Proof Sys2Proof.Machine Sys2Proof.Claims

/-- `answered` is the command's end after RESULT <- zext_64(v), for a v that fits RESULT_LO. -/
theorem finish_setResult_eq_answered {v : Nat} (hv : v < 2 ^ 32) (s : State) :
    { s with blk := finish (setResult (BitVec.ofNat 64 v) s.blk) } = answered s v := by
  have hhi : (BitVec.ofNat 64 v).extractLsb' 32 32 = 0#32 := by
    apply BitVec.eq_of_toNat_eq
    simp [Nat.shiftRight_eq_div_pow]
    omega
  have hlo : (BitVec.ofNat 64 v).extractLsb' 0 32 = BitVec.ofNat 32 v := by
    apply BitVec.eq_of_toNat_eq
    simp
  simp [answered, finish, setResult, hhi, hlo]

/-! ## The queries that never fail -/

/-- A query whose effect is to answer `v` completes with RESULT = v. -/
theorem exec_of_answer {i : Instr} {v : Nat} {s : State} (hv : v < 2 ^ 32)
    (h : effect Config.ntps1 i s.blk = answer v s.blk) : exec i s = .next (answered s v) := by
  rw [exec_of_ok h, finish_setResult_eq_answered hv]

/-- Settles O8: the effect of each query is `answer` of its number, under every configuration. -/
theorem fixedParameterQueriesAnswer : Obligations.FixedParameterQueriesAnswer := by
  refine ⟨rfl, fun s => ?exec, fun c b => ⟨rfl, rfl, ?effect⟩⟩
  case exec =>
    refine ⟨?_, ?_, ?_, ?_, ?_⟩
    all_goals exact exec_of_answer (by decide) rfl
  case effect =>
    simp only [List.forall_mem_cons]
    exact ⟨rfl, rfl, rfl, List.forall_mem_nil _⟩

/-! ## The queries of derived values -/

/-- At n = 701 a derived value is answered like a fixed one (40_parameters.md R100). -/
theorem answerDerived_derivedParam_of_eq {wr wc ns : Nat} {c : Config} (h : c.paramN = 701)
    (v : Nat) (b : BlockOf wr wc ns) : answerDerived (derivedParam c v) b = answer v b := by
  simp [derivedParam, answerDerived, answer, h]

/-- At any other n a query of a derived value raises UNSUPPORTED_PARAMETER (40_parameters.md R100,
60_exceptions.md R204). -/
theorem answerDerived_derivedParam_of_ne {wr wc ns : Nat} {c : Config} (h : c.paramN ≠ 701)
    (v : Nat) (b : BlockOf wr wc ns) :
    answerDerived (derivedParam c v) b = .error .unsupportedParameter := by
  simp [derivedParam, answerDerived, h]

/-- On NTPS-1 a query of the derived value `v` completes with RESULT = v. -/
theorem exec_of_answerDerived {i : Instr} {v : Nat} {s : State} (hv : v < 2 ^ 32)
    (h : effect Config.ntps1 i s.blk = answerDerived (derivedParam Config.ntps1 v) s.blk) :
    exec i s = .next (answered s v) :=
  exec_of_answer hv (h.trans (answerDerived_derivedParam_of_eq paramN_ntps1 v s.blk))

/-- Under another PARAM_N a query of a derived value leaves the error record and nothing else. -/
theorem settle_answerDerived_of_ne {wr wc ns : Nat} {c : Config} (h : c.paramN ≠ 701) (v : Nat)
    (b : BlockOf wr wc ns) :
    settle b (answerDerived (derivedParam c v) b) = raiseError .unsupportedParameter b := by
  rw [answerDerived_derivedParam_of_ne h, settle]

/-- Settles O9: the effect of each query is `answerDerived` of its literal, which answers it at
n = 701 and raises the error at any other n. -/
theorem derivedParameterQueriesFollowTheRingDegree :
    Obligations.DerivedParameterQueriesFollowTheRingDegree := by
  refine ⟨rfl, fun s => ?exec, fun c b hn => ?error⟩
  case exec =>
    refine ⟨?_, ?_, ?_, ?_, ?_, ?_⟩
    all_goals exact exec_of_answerDerived (by decide) rfl
  case error =>
    simp only [List.forall_mem_cons]
    refine ⟨?_, ?_, ?_, ?_, ?_, ?_, List.forall_mem_nil _⟩
    all_goals exact settle_answerDerived_of_ne hn _ b

end Sys2Proof.Proofs
end

section
/-! O18 to O20: LIFT and DOWN cell by cell, and the inverse law of their coefficient maps
(41_conversion.md R120 to R124). -/

namespace Sys2Proof.Proofs

open Sys2Proof Sys2Proof.Machine Sys2Proof.Claims

/-! ## O18, O19: what the commands write -/

/-- A buffer filled with the images of the first `d` cells of another holds, in each of its cells,
the image of that cell, and 0 from cell `d` on. -/
theorem read_ofList_map_words {w v : Nat} {c : Config} {i : Nat} (hi : i < c.nMax)
    (f : BitVec w → BitVec v) (m : MemoryOf w) (d : Nat) :
    Memory.read (Memory.ofList c ((Memory.words m d).map f)) i
      = if i < d then f (Memory.read m i) else 0 := by
  rw [read_ofList, if_pos hi]
  by_cases hd : i < d <;> simp [Memory.words, List.getD_eq_getElem?_getD, hd]

/-- The word LIFT stores for U cell `i` holds the cell's lifted integer (41_conversion.md R123). -/
theorem liftWord_uCell (b : Block) (i : Nat) :
    liftWord b.uMod (Memory.read b.uCells i) = BitVec.ofInt 32 (lifted b i) := by
  have htest : 2 * (uNat b i : Int) ≤ b.uMod.toNat ↔ 2 * uNat b i ≤ b.uMod.toNat := by omega
  exact congrArg (BitVec.ofInt 32) (if_congr htest rfl rfl)

/-- Settles O18: the S buffer is the list of lifted words, read cell by cell. -/
theorem liftWritesTheLiftedCells : Obligations.LiftWritesTheLiftedCells := by
  refine ⟨rfl, fun s => ⟨_, exec_lift s, rfl, fun i hi => ?_, rfl, rfl⟩⟩
  rw [← liftWord_uCell]
  exact read_ofList_map_words hi _ _ _

/-- Settles O19: the U buffer is the list of downed words, read cell by cell; `downCoeff` of the
cell is the statement's own formula. -/
theorem downWritesTheUnsignedCells : Obligations.DownWritesTheUnsignedCells :=
  ⟨rfl, fun s => ⟨_, exec_down s, rfl, fun _ hi => read_ofList_map_words hi _ _ _, rfl, rfl⟩⟩

/-! ## O20: the inverse law on integers -/

section Integers

variable {u v q : Int}

theorem liftCoeff_of_le (h : 2 * u ≤ q) : liftCoeff u q = u := if_pos h

theorem liftCoeff_of_lt (h : q < 2 * u) : liftCoeff u q = u - q := if_neg (not_le.mpr h)

theorem downCoeff_of_nonneg (h : 0 ≤ v) : downCoeff v q = v := if_pos h

theorem downCoeff_of_neg (h : v < 0) : downCoeff v q = v + q := if_neg (not_le.mpr h)

/-- `lift` maps [0, q) into (-q/2, q/2] (41_conversion.md R122). -/
theorem liftCoeff_centred (h0 : 0 ≤ u) (hq : u < q) :
    -q < 2 * liftCoeff u q ∧ 2 * liftCoeff u q ≤ q := by
  rcases le_or_gt (2 * u) q with h | h
  · rw [liftCoeff_of_le h]
    omega
  · rw [liftCoeff_of_lt h]
    omega

/-- `down` maps (-q/2, q/2] into [0, q) (41_conversion.md R122). -/
theorem downCoeff_unsigned (hlo : -q < 2 * v) (hhi : 2 * v ≤ q) :
    0 ≤ downCoeff v q ∧ downCoeff v q < q := by
  rcases le_or_gt 0 v with h | h
  · rw [downCoeff_of_nonneg h]
    omega
  · rw [downCoeff_of_neg h]
    omega

/-- R122 (a): a coefficient is lifted by subtracting q exactly when the result is negative. -/
theorem downCoeff_liftCoeff (h0 : 0 ≤ u) (hq : u < q) : downCoeff (liftCoeff u q) q = u := by
  rcases le_or_gt (2 * u) q with h | h
  · rw [liftCoeff_of_le h, downCoeff_of_nonneg h0]
  · rw [liftCoeff_of_lt h, downCoeff_of_neg (by omega), sub_add_cancel]

/-- R122 (b): a coefficient is downed by adding q exactly when the result is above q/2. -/
theorem liftCoeff_downCoeff (hlo : -q < 2 * v) (hhi : 2 * v ≤ q) :
    liftCoeff (downCoeff v q) q = v := by
  rcases le_or_gt 0 v with h | h
  · rw [downCoeff_of_nonneg h, liftCoeff_of_le hhi]
  · rw [downCoeff_of_neg h, liftCoeff_of_lt (by omega), add_sub_cancel_right]

/-- The lift of an in-domain value fits a signed cell (41_conversion.md R122). -/
theorem liftCoeff_fits_signed (hmax : q < 4294967296) (h0 : 0 ≤ u) (hq : u < q) :
    -2147483648 ≤ liftCoeff u q ∧ liftCoeff u q < 2147483648 := by
  obtain ⟨hlo, hhi⟩ := liftCoeff_centred h0 hq
  omega

end Integers

theorem liftCoeff_zero_modulus {a : Int} (h : 0 ≤ a) : liftCoeff a 0 = a := by
  rcases h.eq_or_lt with rfl | hpos
  · rfl
  · rw [liftCoeff_of_lt (by omega), sub_zero]

theorem downCoeff_zero_modulus (a : Int) : downCoeff a 0 = a := by
  simp [downCoeff]

/-! ## O20: the inverse law through the cells -/

/-- The cell of an in-domain lift holds it as its signed value. -/
theorem toInt_liftWord {q u : Word} (h : u.toNat < q.toNat) :
    (liftWord q u).toInt = liftCoeff u.toNat q.toNat := by
  obtain ⟨hlo, hhi⟩ := liftCoeff_fits_signed (Int.ofNat_lt.mpr q.isLt) (Int.natCast_nonneg _)
    (Int.ofNat_lt.mpr h)
  exact BitVec.toInt_ofInt_eq_self (by decide) hlo hhi

/-- The cell of an in-domain down holds it as its unsigned value. -/
theorem toNat_downWord {q v : Word} (hlo : -(q.toNat : Int) < 2 * v.toInt)
    (hhi : 2 * v.toInt ≤ q.toNat) :
    ((downWord q v).toNat : Int) = downCoeff v.toInt q.toNat := by
  obtain ⟨h0, hq⟩ := downCoeff_unsigned hlo hhi
  have hmax := q.isLt
  rw [downWord, BitVec.toNat_ofInt]
  omega

theorem downWord_liftWord {q u : Word} (h : u.toNat < q.toNat) : downWord q (liftWord q u) = u := by
  rw [downWord, toInt_liftWord h,
    downCoeff_liftCoeff (Int.natCast_nonneg _) (Int.ofNat_lt.mpr h), BitVec.ofInt_natCast,
    BitVec.ofNat_toNat, BitVec.setWidth_eq]

theorem liftWord_downWord {q v : Word} (hlo : -(q.toNat : Int) < 2 * v.toInt)
    (hhi : 2 * v.toInt ≤ q.toNat) : liftWord q (downWord q v) = v := by
  rw [liftWord, toNat_downWord hlo hhi, liftCoeff_downCoeff hlo hhi, BitVec.ofInt_toInt]

/-- Settles O20: the two laws on integers, and through the cells, which hold the intermediate value
exactly. -/
theorem liftAndDownAreInverse : Obligations.LiftAndDownAreInverse := by
  refine ⟨fun q _ hmax => ⟨fun u h0 hq => ?_, fun v hlo hhi => ?_⟩, fun q u => downWord_liftWord,
    fun q v => liftWord_downWord, fun a => liftCoeff_zero_modulus, downCoeff_zero_modulus⟩
  · obtain ⟨hlo, hhi⟩ := liftCoeff_centred h0 hq
    exact ⟨downCoeff_liftCoeff h0 hq, hlo, hhi, liftCoeff_fits_signed hmax h0 hq⟩
  · exact ⟨liftCoeff_downCoeff hlo hhi, downCoeff_unsigned hlo hhi⟩

end Sys2Proof.Proofs
end

section
/-! O11 to O14, O16: the polynomial core (42_core.md R130 to R138, R141, R142). -/

namespace Sys2Proof.Proofs

open Sys2Proof Sys2Proof.Machine Sys2Proof.Claims

/-! ## O11: ZERO -/

@[simp] theorem ofList_nil {wc : Nat} (c : Config) :
    Memory.ofList c ([] : List (BitVec wc)) = [] := by
  simp [Memory.ofList, Memory.ofListFrom]

/-- A command that fills S with no words completes with every S cell 0 and its two tags. -/
theorem completes_of_setS_nil {i : Instr} {s : State} {d q : Word}
    (h : effect Config.ntps1 i s.blk = .ok (setS Config.ntps1 d q [] s.blk)) :
    Completes i s (fun b => OnlySChanged s.blk b ∧ (∀ k, Memory.read b.sCells k = 0) ∧
      b.sDeg = d ∧ b.sMod = q) :=
  ⟨_, exec_of_ok h, rfl, fun k => by simp, rfl, rfl⟩

/-- A command that fills U with no words completes with every U cell 0 and its two tags. -/
theorem completes_of_setU_nil {i : Instr} {s : State} {d q : Word}
    (h : effect Config.ntps1 i s.blk = .ok (setU Config.ntps1 d q [] s.blk)) :
    Completes i s (fun b => OnlyUChanged s.blk b ∧ (∀ k, Memory.read b.uCells k = 0) ∧
      b.uDeg = d ∧ b.uMod = q) :=
  ⟨_, exec_of_ok h, rfl, fun k => by simp, rfl, rfl⟩

/-- Commands of the same effect on a block have the same engine step from it. -/
theorem exec_congr {i j : Instr} {s : State}
    (h : effect Config.ntps1 i s.blk = effect Config.ntps1 j s.blk) : exec i s = exec j s := by
  rw [exec_eq_retire, exec_eq_retire, retire, retire, h]

theorem zeroS_eq_initS {wr wc ns : Nat} {c : Config} {b : BlockOf wr wc ns} (h : b.degree = 0) :
    zeroS c b = initS c b := by
  rw [zeroS, initS, h]

theorem zeroU_eq_initU {wr wc ns : Nat} {c : Config} {b : BlockOf wr wc ns} (h : b.degree = 0) :
    zeroU c b = initU c b := by
  rw [zeroU, initU, h]

/-- Settles O11: each ZERO fills its buffer with no words under the tag DEGREE, which is INIT's
effect when DEGREE is 0. -/
theorem zeroBuildsTheZeroPolynomial : Obligations.ZeroBuildsTheZeroPolynomial :=
  ⟨rfl, rfl, fun _ => ⟨completes_of_setS_nil rfl, completes_of_setU_nil rfl,
    fun hdeg => ⟨exec_congr (zeroS_eq_initS hdeg), exec_congr (zeroU_eq_initU hdeg)⟩⟩⟩

/-! ## O12: INIT, and the commands on an empty polynomial -/

theorem sWords_of_empty {b : Block} (h : b.sDeg = 0) : sWords b = [] := by
  simp [sWords, Memory.words, h]

theorem uWords_of_empty {b : Block} (h : b.uDeg = 0) : uWords b = [] := by
  simp [uWords, Memory.words, h]

theorem sCoeffs_of_empty {b : Block} (h : b.sDeg = 0) : sCoeffs b = [] := by
  rw [sCoeffs, sWords_of_empty h, List.map_nil]

theorem uCoeffs_of_empty {b : Block} (h : b.uDeg = 0) : uCoeffs b = [] := by
  rw [uCoeffs, uWords_of_empty h, List.map_nil]

/-- DOWN of an empty S polynomial is a U polynomial of no words with S's tags. -/
theorem down_of_empty {c : Config} {b : Block} (h : b.sDeg = 0) :
    down c b = .ok (setU c 0 b.sMod [] b) := by
  rw [down, sWords_of_empty h, h, List.map_nil]

/-- LIFT of an empty U polynomial is an S polynomial of no words with U's tags. -/
theorem lift_of_empty {c : Config} {b : Block} (h : b.uDeg = 0) :
    Machine.lift c b = .ok (setS c 0 b.uMod [] b) := by
  rw [Machine.lift, uWords_of_empty h, h, List.map_nil]

/-- Settles O12: INIT fills its buffer with no words under the tag 0; over no coefficients the test
holds, the count and the sum are 0, and a conversion converts no words. -/
theorem initBuildsTheEmptyPolynomial : Obligations.InitBuildsTheEmptyPolynomial := by
  refine ⟨rfl, rfl, fun s => ⟨completes_of_setS_nil rfl, completes_of_setU_nil rfl,
    fun hdeg => ?emptyS, fun hdeg => ?emptyU⟩⟩
  case emptyS =>
    have hcs := sCoeffs_of_empty hdeg
    refine ⟨exec_of_answer (by decide) ?_, exec_of_answer (by decide) ?_,
      exec_of_answer (by decide) ?_, exec_of_ok ?_, completes_of_setU_nil (down_of_empty hdeg)⟩
    · rw [effect, istriS, hcs]; rfl
    · rw [effect, hammingS, hcs]; rfl
    · rw [effect, norm1S, hcs]; rfl
    · rw [effect, gateS, hcs]; rfl
  case emptyU =>
    have hcs := uCoeffs_of_empty hdeg
    refine ⟨exec_of_answer (by decide) ?_, exec_of_answer (by decide) ?_,
      exec_of_answer (by decide) ?_, exec_of_ok ?_, completes_of_setS_nil (lift_of_empty hdeg)⟩
    · rw [effect, istriU, hcs]; rfl
    · rw [effect, hammingU, hcs]; rfl
    · rw [effect, norm1U, hcs]; rfl
    · rw [effect, gateU, hcs]; rfl

/-! ## The coefficients of the buffers, by index -/

/-- The S coefficients are the cells below S_DEG as integers (00_scope.md R12). -/
theorem sCoeffs_eq_map_sInt (b : Block) :
    sCoeffs b = (List.range b.sDeg.toNat).map (sInt b) := by
  simp [sCoeffs, sWords, Memory.words, sInt]

/-- The U coefficients are the signed view of the cells below U_DEG (42_core.md R134). -/
theorem uCoeffs_eq_map_sv (b : Block) : uCoeffs b = (List.range b.uDeg.toNat).map (sv b) := by
  simp [uCoeffs, uWords, Memory.words, sv, liftWord_uCell]

theorem isTrinary_map_range_iff {d : Nat} {f : Nat → Int} :
    isTrinary ((List.range d).map f) = true ↔ ∀ i, i < d → IsTrit (f i) := by
  simp [isTrinary, trit, or_assoc]

theorem isTrinary_sCoeffs_iff {b : Block} :
    isTrinary (sCoeffs b) = true ↔ ∀ i, i < b.sDeg.toNat → IsTrit (sInt b i) := by
  rw [sCoeffs_eq_map_sInt, isTrinary_map_range_iff]

theorem isTrinary_uCoeffs_iff {b : Block} :
    isTrinary (uCoeffs b) = true ↔ ∀ i, i < b.uDeg.toNat → IsTrit (sv b i) := by
  rw [uCoeffs_eq_map_sv, isTrinary_map_range_iff]

/-- The count over a list of coefficients is the number of indices with a nonzero one. -/
theorem hamming_map_range (d : Nat) (f : Nat → Int) :
    hamming ((List.range d).map f) = ((Finset.range d).filter fun i => f i ≠ 0).card := by
  rw [hamming, List.countP_map, ← Nat.count_eq_card_filter_range, Nat.count]
  exact List.countP_congr fun i _ => by simp

theorem sInt_ne_zero_iff {b : Block} {i : Nat} : sInt b i ≠ 0 ↔ Memory.read b.sCells i ≠ 0 :=
  BitVec.toInt_ne (y := 0)

/-! ## O13: ISTRI -/

/-- A command that writes RESULT completes with that value and nothing else changed. -/
theorem completes_of_setResult {i : Instr} {s : State} {v : DWord}
    (h : effect Config.ntps1 i s.blk = .ok (setResult v s.blk)) :
    Completes i s (fun b => OnlyResultChanged s.blk b ∧ result b = v) :=
  ⟨_, exec_of_ok h, rfl, result_setResult v s.blk⟩

/-- A command that answers 1 or 0 for the test of `cs`, which decides `P`. -/
theorem completes_of_istri {i : Instr} {s : State} {cs : List Int} {P : Prop}
    (h : effect Config.ntps1 i s.blk = .ok (setResult (if isTrinary cs then 1 else 0) s.blk))
    (hP : isTrinary cs = true ↔ P) :
    Completes i s (fun b => OnlyResultChanged s.blk b ∧
      (P → result b = 1) ∧ (¬ P → result b = 0)) := by
  obtain ⟨b, hexec, hframe, hresult⟩ := completes_of_setResult h
  refine ⟨b, hexec, hframe, fun hp => ?_, fun hnp => ?_⟩
  · rw [hresult, if_pos (hP.mpr hp)]
  · rw [hresult, if_neg (mt hP.mp hnp)]

/-- Settles O13: RESULT is 1 or 0 by the test of the buffer's coefficients, read by index. -/
theorem istriTellsWhetherEveryCoefficientIsTrinary :
    Obligations.IstriTellsWhetherEveryCoefficientIsTrinary :=
  ⟨rfl, rfl, fun _ => ⟨completes_of_istri rfl isTrinary_sCoeffs_iff,
    completes_of_istri rfl isTrinary_uCoeffs_iff⟩⟩

/-! ## O14: HAMMING -/

/-- A command that answers the count over the coefficients `f 0 .. f (d-1)` completes with the
number of nonzero ones, which is at most `d` and so fits RESULT. -/
theorem completes_of_hamming {i : Instr} {s : State} {d : Word} {f : Nat → Int}
    (h : effect Config.ntps1 i s.blk
      = .ok (setResult (BitVec.ofNat 64 (hamming ((List.range d.toNat).map f))) s.blk)) :
    Completes i s (fun b => OnlyResultChanged s.blk b ∧
      (result b).toNat = ((Finset.range d.toNat).filter fun k => f k ≠ 0).card) := by
  rw [hamming_map_range] at h
  obtain ⟨b, hexec, hframe, hresult⟩ := completes_of_setResult h
  have hle : ((Finset.range d.toNat).filter fun k => f k ≠ 0).card ≤ d.toNat :=
    (Finset.card_filter_le _ _).trans_eq (Finset.card_range _)
  have hd := d.isLt
  refine ⟨b, hexec, hframe, ?_⟩
  rw [hresult, BitVec.toNat_ofNat, Nat.mod_eq_of_lt (by omega)]

/-- Settles O14: the count over the buffer's coefficients, read by index; an S coefficient is
nonzero exactly when its cell is. -/
theorem hammingCountsTheNonzeroCoefficients : Obligations.HammingCountsTheNonzeroCoefficients := by
  refine ⟨rfl, rfl, fun s => ⟨?S, ?U⟩⟩
  case S =>
    have h : Completes .hammingS s _ := completes_of_hamming (d := s.blk.sDeg) (f := sInt s.blk)
      (by rw [← sCoeffs_eq_map_sInt]; rfl)
    simpa only [sInt_ne_zero_iff] using h
  case U =>
    exact completes_of_hamming (by rw [← uCoeffs_eq_map_sv]; rfl)

/-! ## O16: GATE -/

section Gate

variable {i : Instr} {s : State} {cs : List Int}
  (h : effect Config.ntps1 i s.blk
    = if isTrinary cs then .ok s.blk else .error .trinaryViolation)

include h

/-- A gate over trinary coefficients completes with nothing written but PHASE. -/
theorem exec_of_gate_passed (hcs : isTrinary cs = true) :
    exec i s = .next { s with blk := { s.blk with phase := .idle } } :=
  exec_of_ok (h.trans (if_pos hcs))

/-- A gate over any other coefficients leaves the error record. -/
theorem raises_of_gate_failed (hcs : ¬ isTrinary cs = true) : Raises i s .trinaryViolation :=
  exec_of_error (h.trans (if_neg hcs))

end Gate

/-- Settles O16: each gate is the test of its buffer's coefficients, read by index. -/
theorem gatePassesExactlyTheTrinaryPolynomials :
    Obligations.GatePassesExactlyTheTrinaryPolynomials :=
  ⟨rfl, rfl, rfl, fun _ =>
    ⟨fun hall => exec_of_gate_passed rfl (isTrinary_sCoeffs_iff.mpr hall),
      fun hnot => raises_of_gate_failed rfl (mt isTrinary_sCoeffs_iff.mp hnot),
      fun hall => exec_of_gate_passed rfl (isTrinary_uCoeffs_iff.mpr hall),
      fun hnot => raises_of_gate_failed rfl (mt isTrinary_uCoeffs_iff.mp hnot)⟩⟩

end Sys2Proof.Proofs
end

section
/-! O23 to O26, O59: the keystream expander (43_keystream.md). -/

namespace Sys2Proof.Proofs

open Sys2Proof Sys2Proof.Machine Sys2Proof.Claims

/-! ## O23: the quarter round -/

section QuarterLine

variable {a b d k : Fin 16} {r : Nat} {x : ChaCha}

/-- The line's first write: word `a` holds the sum. -/
theorem quarterLine_sum (had : a ≠ d) : (quarterLine a b d r x)[a] = x[a] + x[b] := by
  have hval : d.val ≠ a.val := Fin.val_ne_of_ne had.symm
  simp [quarterLine, Vector.getElem_set, hval]

/-- The line's second write: word `d` holds the rotated XOR with the new word `a`. -/
theorem quarterLine_rotated (had : a ≠ d) :
    (quarterLine a b d r x)[d] = (x[d] ^^^ (x[a] + x[b])).rotateLeft r := by
  have hval : a.val ≠ d.val := Fin.val_ne_of_ne had
  simp [quarterLine, hval]

/-- The line writes words `a` and `d` only. -/
theorem quarterLine_other (hka : k ≠ a) (hkd : k ≠ d) : (quarterLine a b d r x)[k] = x[k] := by
  have ha : a.val ≠ k.val := Fin.val_ne_of_ne hka.symm
  have hd : d.val ≠ k.val := Fin.val_ne_of_ne hkd.symm
  simp [quarterLine, Vector.getElem_set, ha, hd]

end QuarterLine

theorem quarterRound_other {a b c d k : Fin 16} {x : ChaCha} (hk : k ∉ [a, b, c, d]) :
    (quarterRound a b c d x)[k] = x[k] := by
  simp only [List.mem_cons, List.not_mem_nil, or_false, not_or] at hk
  obtain ⟨ha, hb, hc, hd⟩ := hk
  rw [quarterRound, quarterLine_other hc hb, quarterLine_other ha hd, quarterLine_other hc hb,
    quarterLine_other ha hd]

/-- Settles O23: each line's two words and its frame, read through the four lines in order. -/
theorem quarterRoundMixesItsFourWords : Obligations.QuarterRoundMixesItsFourWords := by
  intro a b c d x hdistinct
  obtain ⟨⟨hab, hac, had⟩, ⟨hbc, hbd⟩, hcd⟩ :
      (a ≠ b ∧ a ≠ c ∧ a ≠ d) ∧ (b ≠ c ∧ b ≠ d) ∧ c ≠ d := by simpa using hdistinct
  refine ⟨?_, ?_, ?_, ?_, fun k hk => quarterRound_other hk⟩
  all_goals simp only [quarterRound, quarterLine_sum, quarterLine_rotated, quarterLine_other, ne_eq,
    hab, hac, had, hbd, hcd, hab.symm, hac.symm, hbc.symm, hbd.symm, hcd.symm,
    not_false_eq_true]

/-! ## O59: the block function -/

theorem toNat_chachaInit_counter_low (seed : Vector Word 8) (n : Nat) :
    (chachaInit seed n)[12].toNat = n % 2 ^ 32 := by
  simp [chachaInit]

theorem toNat_chachaInit_counter_high (seed : Vector Word 8) {n : Nat} (hn : n < 2 ^ 64) :
    (chachaInit seed n)[13].toNat = n / 2 ^ 32 := by
  have hfits : n / 2 ^ 32 < 2 ^ 32 := by omega
  simpa [chachaInit] using hfits

theorem chachaInit_key (seed : Vector Word 8) (n : Nat) (k : Fin 8) :
    (chachaInit seed n)[4 + k.val] = seed[k] := by
  fin_cases k <;> rfl

/-- A double round is the column round, then the diagonal round (43_keystream.md R153). -/
theorem doubleRounds_eq_iterate (n : Nat) (x : ChaCha) :
    doubleRounds n x = columnsThenDiagonals^[n] x := by
  induction n generalizing x with
  | zero => rfl
  | succ n ih => exact ih (columnsThenDiagonals x)

theorem chachaBlock_getElem (c : Config) (seed : Vector Word 8) (n : Nat) (m : Fin 16) :
    (chachaBlock c seed n)[m]
      = (columnsThenDiagonals^[c.ksRounds / 2] (chachaInit seed n))[m] + (chachaInit seed n)[m] := by
  rw [← doubleRounds_eq_iterate]
  exact Vector.getElem_zipWith _

/-- Settles O59: the initial words are read off, and the block is the sum word by word. -/
theorem keystreamBlocksMixTheSeedAndTheCounter :
    Obligations.KeystreamBlocksMixTheSeedAndTheCounter := by
  refine ⟨fun seed n => ⟨rfl, rfl, rfl, rfl, chachaInit_key seed n,
    toNat_chachaInit_counter_low seed n, toNat_chachaInit_counter_high seed, rfl, rfl⟩,
    fun c seed n m => ?_⟩
  rw [chachaBlock_getElem, BitVec.toNat_add]

/-! ## O24: keystream words and bytes -/

/-- Settles O24: byte 8w + j lies in block w div 8, in the low word of KS(w) when j < 4 and in the
high word otherwise. -/
theorem keystreamWordsAreTheBytesLittleEndian :
    Obligations.KeystreamWordsAreTheBytesLittleEndian := by
  refine fun c seed w => ⟨rfl, fun j hj => ?_⟩
  have hblock : (8 * w + j) / 64 = w / 8 := by omega
  rw [keystream, keystreamByte, hblock]
  rcases lt_or_ge j 4 with hlow | hhigh
  · have hword : (8 * w + j) % 64 / 4 = 2 * (w % 8) := by omega
    have hbyte : (8 * w + j) % 4 = j := by omega
    rw [hword, hbyte, BitVec.extractLsb'_append_eq_of_add_le (by omega)]
  · have hword : (8 * w + j) % 64 / 4 = 2 * (w % 8) + 1 := by omega
    have hbyte : 8 * ((8 * w + j) % 4) = 8 * j - 32 := by omega
    rw [hword, hbyte, BitVec.extractLsb'_append_eq_of_le (by omega)]

/-! ## O25: the published vector -/

/-- Block 0 of the all-zero seed (43_keystream.md R160). -/
def zeroSeedBlock : ChaCha :=
  #v[0xADE0B876, 0x903DF1A0, 0xE56A5D40, 0x28BD8653, 0xB819D2BD, 0x1AED8DA0, 0xCCEF36A8, 0xC70D778B,
     0x7C5941DA, 0x8D485751, 0x3FE02477, 0x374AD8B8, 0xF4B8436A, 0x1CA11815, 0x69B687C3, 0x8665EEB2]

theorem chachaBlock_zeroSeed :
    chachaBlock Config.ntps1 (Vector.replicate 8 0) 0 = zeroSeedBlock := by
  decide +kernel

theorem keystreamByte_zeroSeed {p : Nat} (hp : p < 64) :
    keystreamByte Config.ntps1 (Vector.replicate 8 0) p
      = (zeroSeedBlock.toList.getD (p / 4) 0).extractLsb' (8 * (p % 4)) 8 := by
  rw [keystreamByte, Nat.div_eq_of_lt hp, Nat.mod_eq_of_lt hp, chachaBlock_zeroSeed]

/-- Settles O25: every published value is read from block 0, which the kernel computes once. -/
theorem zeroSeedKeystreamIsThePublishedVector :
    Obligations.ZeroSeedKeystreamIsThePublishedVector := by
  refine ⟨?words, ?ks0, ?ks1, ?bytes⟩
  case words =>
    rw [chachaBlock_zeroSeed]
    rfl
  case ks0 =>
    rw [keystream, Nat.zero_div, chachaBlock_zeroSeed]
    rfl
  case ks1 =>
    rw [keystream, Nat.div_eq_of_lt (by decide), chachaBlock_zeroSeed]
    rfl
  case bytes =>
    rw [List.map_congr_left fun p hp => keystreamByte_zeroSeed (List.mem_range.mp hp)]
    decide

/-! ## O26: the label -/

/-- The block with another DLABEL. -/
def withLabel (v : Word) (b : Block) : Block := { b with dlabel := v }

theorem withLabel_settleCommutes (v : Word) : SettleCommutes (withLabel v) :=
  ⟨fun _ => rfl, fun _ _ => rfl⟩

/-- A sampler into S at NTPS-1: one test of DEGREE, then one write (44_sampler.md R175, R176). -/
theorem sampleIntoS_ntps1 (cs : Block → List Int) (b : Block) :
    sampleIntoS Config.ntps1 cs b
      = if 2 ≤ b.degree.toNat then
          .ok (setS Config.ntps1 b.degree 8192 ((cs b).map (BitVec.ofInt 32)) b)
        else .error .invalidDegree := by
  rw [sampleIntoS, samplerModulus_ntps1]
  rcases lt_or_ge b.degree.toNat 2 with hlow | hok
  · rw [if_pos hlow, if_neg (not_le.mpr hlow)]
  · rw [if_neg (not_lt.mpr hok), if_pos hok]
    rfl

/-- A sampler into U at NTPS-1: one test of DEGREE, then one write (44_sampler.md R177, R178). -/
theorem sampleIntoU_ntps1 (cs : Block → List Int) (b : Block) :
    sampleIntoU Config.ntps1 cs b
      = if 2 ≤ b.degree.toNat then
          .ok (setU Config.ntps1 b.degree 8192
            ((cs b).map fun x => BitVec.ofInt 32 (downCoeff x 8192)) b)
        else .error .invalidDegree := by
  rw [sampleIntoU, samplerModulus_ntps1]
  rcases lt_or_ge b.degree.toNat 2 with hlow | hok
  · rw [if_pos hlow, if_neg (not_le.mpr hlow)]
  · rw [if_neg (not_lt.mpr hok), if_pos hok]
    rfl

/-- A command that makes one test before its write commutes with a change that neither the test nor
the write reads. -/
theorem effectCommutes_of_test {f w : Block → Block} {P : Block → Prop} [DecidablePred P]
    {e : ErrCode} {i : Instr}
    (hi : ∀ b, effect Config.ntps1 i b = if P b then .ok (w b) else .error e)
    (hP : ∀ b, P (f b) ↔ P b) (hw : ∀ b, w (f b) = f (w b)) : EffectCommutes f i := by
  intro b
  by_cases h : P b
  · rw [hi, hi, if_pos h, if_pos ((hP b).mpr h), hw]
    rfl
  · rw [hi, hi, if_neg h, if_neg (mt (hP b).mp h)]
    rfl

/-- No command reads or writes DLABEL (43_keystream.md R157). UNIFORM's test is of the constant
q = 8192, so its effect computes to its write like those that test nothing. -/
theorem effectCommutes_withLabel (v : Word) (i : Instr) : EffectCommutes (withLabel v) i := by
  cases i
  case gateS | gateU =>
    exact effectCommutes_of_test (w := id) (fun _ => rfl) (fun _ => Iff.rfl) fun _ => rfl
  case sampleT | sampleTP =>
    exact effectCommutes_of_test (sampleIntoS_ntps1 _) (fun _ => Iff.rfl) fun _ => rfl
  case sampleTU | sampleTPU =>
    exact effectCommutes_of_test (sampleIntoU_ntps1 _) (fun _ => Iff.rfl) fun _ => rfl
  all_goals exact fun _ => rfl

/-- Settles O26: the effect of every command commutes with replacing the label. -/
theorem domainLabelReachesNoResult : Obligations.DomainLabelReachesNoResult :=
  fun i _ _ v h => exec_commutes (withLabel_settleCommutes v) (effectCommutes_withLabel v i) h

end Sys2Proof.Proofs
end

section
/-! O27 to O29, O31, O33: the trinary samplers (44_sampler.md R170 to R179). The coefficient vectors
are read by index; a sampler's cells are then the vector's coefficients. -/

namespace Sys2Proof.Proofs

open Sys2Proof Sys2Proof.Machine Sys2Proof.Claims

/-! ## The coefficient vectors by index -/

@[simp] theorem tVec_length (c : Config) (seed : Vector Word 8) (d : Nat) :
    (tVec c seed d).length = d := by
  simp [tVec]

/-- Coefficient i of `Tvec(d)` (44_sampler.md R171); beyond the vector as well as in its top two
places the test `i <= d-3` fails. -/
theorem tVec_getD (c : Config) (seed : Vector Word 8) (d i : Nat) :
    (tVec c seed d).getD i 0
      = if i + 3 ≤ d then pairCoeff (keystream c seed (i / 32)) (i % 32) else 0 := by
  rcases lt_or_ge i d with hi | hi
  · simp [tVec, List.getD_eq_getElem?_getD, hi]
  · rw [List.getD_eq_default _ _ (by simpa using hi), if_neg (by omega)]

@[simp] theorem negateEven_length (cs : List Int) : (negateEven cs).length = cs.length := by
  simp [negateEven]

theorem negateEven_getD (cs : List Int) (i : Nat) :
    (negateEven cs).getD i 0 = if i % 2 = 0 then -cs.getD i 0 else cs.getD i 0 := by
  rcases lt_or_ge i cs.length with hi | hi
  · simp [negateEven, List.getD_eq_getElem?_getD, hi]
  · rw [List.getD_eq_default _ _ (by simpa using hi), List.getD_eq_default _ _ hi, neg_zero, ite_self]

@[simp] theorem canonicalize_length (cs : List Int) : (canonicalize cs).length = cs.length := by
  rw [canonicalize]
  split
  · exact negateEven_length cs
  · rfl

/-- Coefficient i of the T+ form (44_sampler.md R174). -/
theorem canonicalize_getD (cs : List Int) (i : Nat) :
    (canonicalize cs).getD i 0
      = if corrSum cs < 0 ∧ i % 2 = 0 then -cs.getD i 0 else cs.getD i 0 := by
  rw [canonicalize]
  by_cases hneg : corrSum cs < 0
  · rw [if_pos hneg, negateEven_getD]
    simp only [hneg, true_and]
  · rw [if_neg hneg, if_neg (mt And.left hneg)]

@[simp] theorem tpVec_length (c : Config) (seed : Vector Word 8) (d : Nat) :
    (tpVec c seed d).length = d := by
  rw [tpVec, canonicalize_length, tVec_length]

/-! ## The correlation sum -/

theorem corrSum_eq_sum (cs : List Int) :
    corrSum cs = ∑ i ∈ Finset.range (cs.length - 2), cs.getD i 0 * cs.getD (i + 1) 0 := rfl

/-- Of two neighbouring indices exactly one is even, so each product changes its sign. -/
theorem corrSum_negateEven (cs : List Int) : corrSum (negateEven cs) = -corrSum cs := by
  rw [corrSum_eq_sum, corrSum_eq_sum, negateEven_length, ← Finset.sum_neg_distrib]
  refine Finset.sum_congr rfl fun i _ => ?_
  rw [negateEven_getD, negateEven_getD]
  rcases Nat.mod_two_eq_zero_or_one i with heven | hodd
  · rw [if_pos heven, if_neg (by omega), neg_mul]
  · rw [if_neg (by omega), if_pos (by omega), mul_neg]

theorem corrSum_canonicalize (cs : List Int) : corrSum (canonicalize cs) = |corrSum cs| := by
  rw [canonicalize]
  rcases lt_or_ge (corrSum cs) 0 with hneg | hnonneg
  · rw [if_pos hneg, corrSum_negateEven, abs_of_neg hneg]
  · rw [if_neg (not_lt.mpr hnonneg), abs_of_nonneg hnonneg]

/-! ## Trinary vectors with a zero top -/

theorem isTrit_neg {x : Int} (h : IsTrit x) : IsTrit (-x) := by
  rcases h with rfl | rfl | rfl <;> decide

theorem isTrit_iff_abs_le_one {x : Int} : IsTrit x ↔ |x| ≤ 1 := by
  rw [abs_le]
  omega

theorem isTrit_mul {x y : Int} (hx : IsTrit x) (hy : IsTrit y) : IsTrit (x * y) := by
  rw [isTrit_iff_abs_le_one] at hx hy ⊢
  rw [abs_mul]
  exact mul_le_one₀ hx (abs_nonneg y) hy

/-- A pair of keystream bits makes a coefficient in {-1, 0, 1} (44_sampler.md R170). -/
theorem isTrit_pairCoeff (w : DWord) (j : Nat) : IsTrit (pairCoeff w j) := by
  rw [pairCoeff]
  cases w.getLsbD (2 * j + 1) <;> cases w.getLsbD (2 * j) <;> decide

/-- The vectors of 44_sampler.md R179 (a) and (b): `d` coefficients in {-1, 0, 1}, the top two 0. -/
structure TrinaryZeroTop (d : Nat) (cs : List Int) : Prop where
  length_eq : cs.length = d
  trit : ∀ i, IsTrit (cs.getD i 0)
  top : ∀ i, d ≤ i + 2 → cs.getD i 0 = 0

theorem tVec_trinaryZeroTop (c : Config) (seed : Vector Word 8) (d : Nat) :
    TrinaryZeroTop d (tVec c seed d) where
  length_eq := tVec_length c seed d
  trit i := by
    rw [tVec_getD]
    split
    · exact isTrit_pairCoeff _ _
    · decide
  top i hi := by rw [tVec_getD, if_neg (by omega)]

theorem TrinaryZeroTop.canonicalize {d : Nat} {cs : List Int} (h : TrinaryZeroTop d cs) :
    TrinaryZeroTop d (canonicalize cs) where
  length_eq := (canonicalize_length cs).trans h.length_eq
  trit i := by
    rw [canonicalize_getD]
    split
    · exact isTrit_neg (h.trit i)
    · exact h.trit i
  top i hi := by rw [canonicalize_getD, h.top i hi, neg_zero, ite_self]

theorem tpVec_trinaryZeroTop (c : Config) (seed : Vector Word 8) (d : Nat) :
    TrinaryZeroTop d (tpVec c seed d) :=
  (tVec_trinaryZeroTop c seed d).canonicalize

/-- Each of the d - 2 products lies in {-1, 0, 1} (44_sampler.md R173). -/
theorem TrinaryZeroTop.abs_corrSum_le {d : Nat} {cs : List Int} (h : TrinaryZeroTop d cs)
    (hd : 2 ≤ d) : |corrSum cs| ≤ d - 2 := by
  rw [corrSum_eq_sum, h.length_eq]
  calc |∑ i ∈ Finset.range (d - 2), cs.getD i 0 * cs.getD (i + 1) 0|
      ≤ ∑ i ∈ Finset.range (d - 2), |cs.getD i 0 * cs.getD (i + 1) 0| :=
        Finset.abs_sum_le_sum_abs _ _
    _ ≤ ∑ _i ∈ Finset.range (d - 2), 1 :=
        Finset.sum_le_sum fun i _ =>
          isTrit_iff_abs_le_one.mp (isTrit_mul (h.trit i) (h.trit (i + 1)))
    _ = (d : Int) - 2 := by simp [Nat.cast_sub hd]

/-! ## O31: the correlation sum of a T vector -/

/-- Settles O31: the sum is that of the vector's neighbouring products, of which the last has the
zero coefficient d-2 as a factor and each lies in {-1, 0, 1}. -/
theorem correlationSumOfATVector : Obligations.CorrelationSumOfATVector := by
  intro c seed d hd
  have hvec := tVec_trinaryZeroTop c seed d
  have hsum := corrSum_eq_sum (tVec c seed d)
  rw [tVec_length] at hsum
  refine ⟨hsum, fun hd3 => ?last, fun hd2 => ?two, hvec.abs_corrSum_le hd⟩
  case last => rw [hvec.top (d - 2) (by omega), mul_zero]
  case two => rw [hsum, hd2, Nat.sub_self, Finset.sum_range_zero]

/-! ## The coefficients the statements name -/

theorem tVec_getD_eq_tCoeff (b : Block) (i : Nat) :
    (tVec Config.ntps1 b.seed b.degree.toNat).getD i 0 = tCoeff b i :=
  tVec_getD _ _ _ _

theorem corrSum_tVec_eq_tSum (b : Block) :
    corrSum (tVec Config.ntps1 b.seed b.degree.toNat) = tSum b := by
  simp only [corrSum_eq_sum, tVec_length, tVec_getD_eq_tCoeff, tSum]

theorem tpVec_getD_eq_tpCoeff (b : Block) (i : Nat) :
    (tpVec Config.ntps1 b.seed b.degree.toNat).getD i 0 = tpCoeff b i := by
  rw [tpVec, canonicalize_getD, corrSum_tVec_eq_tSum, tVec_getD_eq_tCoeff, tpCoeff]

/-! ## The samplers' engine steps -/

/-- The block after a sampler has written the coefficients `cs` into S (44_sampler.md R175, R176). -/
def sampledS (cs : List Int) (b : Block) : Block :=
  finish (setS Config.ntps1 b.degree 8192 (cs.map (BitVec.ofInt 32)) b)

/-- The block after a sampler has written the coefficients `cs` into U (44_sampler.md R177, R178). -/
def sampledU (cs : List Int) (b : Block) : Block :=
  finish (setU Config.ntps1 b.degree 8192 (cs.map fun x => BitVec.ofInt 32 (downCoeff x 8192)) b)

section Steps

variable {s : State}

theorem exec_of_sampleIntoS {i : Instr} {cs : Block → List Int}
    (h : effect Config.ntps1 i s.blk = sampleIntoS Config.ntps1 cs s.blk)
    (hd : 2 ≤ s.blk.degree.toNat) :
    exec i s = .next { s with blk := sampledS (cs s.blk) s.blk } :=
  exec_of_ok (by rw [h, sampleIntoS_ntps1, if_pos hd])

theorem exec_of_sampleIntoU {i : Instr} {cs : Block → List Int}
    (h : effect Config.ntps1 i s.blk = sampleIntoU Config.ntps1 cs s.blk)
    (hd : 2 ≤ s.blk.degree.toNat) :
    exec i s = .next { s with blk := sampledU (cs s.blk) s.blk } :=
  exec_of_ok (by rw [h, sampleIntoU_ntps1, if_pos hd])

theorem raises_of_sampleIntoS {i : Instr} {cs : Block → List Int}
    (h : effect Config.ntps1 i s.blk = sampleIntoS Config.ntps1 cs s.blk)
    (hd : s.blk.degree.toNat < 2) : Raises i s .invalidDegree :=
  exec_of_error (by rw [h, sampleIntoS_ntps1, if_neg (not_le.mpr hd)])

theorem raises_of_sampleIntoU {i : Instr} {cs : Block → List Int}
    (h : effect Config.ntps1 i s.blk = sampleIntoU Config.ntps1 cs s.blk)
    (hd : s.blk.degree.toNat < 2) : Raises i s .invalidDegree :=
  exec_of_error (by rw [h, sampleIntoU_ntps1, if_neg (not_le.mpr hd)])

theorem blockT_ntps1 (b : Block) :
    blockT Config.ntps1 b = tVec Config.ntps1 b.seed b.degree.toNat := by
  rw [blockT, keyWords_ntps1]

theorem blockTP_ntps1 (b : Block) :
    blockTP Config.ntps1 b = tpVec Config.ntps1 b.seed b.degree.toNat := by
  rw [blockTP, keyWords_ntps1]

theorem exec_sampleT (hd : 2 ≤ s.blk.degree.toNat) :
    exec .sampleT s = .next
      { s with blk := sampledS (tVec Config.ntps1 s.blk.seed s.blk.degree.toNat) s.blk } := by
  rw [← blockT_ntps1]
  exact exec_of_sampleIntoS rfl hd

theorem exec_sampleTP (hd : 2 ≤ s.blk.degree.toNat) :
    exec .sampleTP s = .next
      { s with blk := sampledS (tpVec Config.ntps1 s.blk.seed s.blk.degree.toNat) s.blk } := by
  rw [← blockTP_ntps1]
  exact exec_of_sampleIntoS rfl hd

theorem exec_sampleTU (hd : 2 ≤ s.blk.degree.toNat) :
    exec .sampleTU s = .next
      { s with blk := sampledU (tVec Config.ntps1 s.blk.seed s.blk.degree.toNat) s.blk } := by
  rw [← blockT_ntps1]
  exact exec_of_sampleIntoU rfl hd

theorem exec_sampleTPU (hd : 2 ≤ s.blk.degree.toNat) :
    exec .sampleTPU s = .next
      { s with blk := sampledU (tpVec Config.ntps1 s.blk.seed s.blk.degree.toNat) s.blk } := by
  rw [← blockTP_ntps1]
  exact exec_of_sampleIntoU rfl hd

end Steps

section UnsupportedParameter

variable {wr wc ns : Nat} {c : Config}

/-- UNSUPPORTED_PARAMETER comes before the test of DEGREE (60_exceptions.md R204). -/
theorem samplerModulus_of_paramN_ne (hn : c.paramN ≠ 701) (b : BlockOf wr wc ns) :
    samplerModulus c b = .error .unsupportedParameter := by
  simp [samplerModulus, paramQValue, derivedParam, hn]

theorem sampleIntoS_of_paramN_ne (hn : c.paramN ≠ 701) (cs : BlockOf wr wc ns → List Int)
    (b : BlockOf wr wc ns) : sampleIntoS c cs b = .error .unsupportedParameter := by
  rw [sampleIntoS, samplerModulus_of_paramN_ne hn]

theorem sampleIntoU_of_paramN_ne (hn : c.paramN ≠ 701) (cs : BlockOf wr wc ns → List Int)
    (b : BlockOf wr wc ns) : sampleIntoU c cs b = .error .unsupportedParameter := by
  rw [sampleIntoU, samplerModulus_of_paramN_ne hn]

end UnsupportedParameter

/-! ## O27 to O29: the sampled cells -/

/-- A buffer filled with the images of coefficients under a map that keeps 0 holds, in each of its
cells, the image of that coefficient. -/
theorem read_ofList_map_coeffs {wc : Nat} {c : Config} {f : Int → BitVec wc} (hf : f 0 = 0)
    (cs : List Int) {i : Nat} (hi : i < c.nMax) :
    Memory.read (Memory.ofList c (cs.map f)) i = f (cs.getD i 0) := by
  rw [read_ofList, if_pos hi, show 0#wc = f 0 from hf.symm, List.getD_map]

theorem read_sampledS (cs : List Int) (b : Block) {i : Nat} (hi : i < 701) :
    Memory.read (sampledS cs b).sCells i = BitVec.ofInt 32 (cs.getD i 0) :=
  read_ofList_map_coeffs (c := Config.ntps1) rfl cs hi

theorem read_sampledU (cs : List Int) (b : Block) {i : Nat} (hi : i < 701) :
    Memory.read (sampledU cs b).uCells i = down8192 (cs.getD i 0) :=
  read_ofList_map_coeffs (c := Config.ntps1) (f := down8192) rfl cs hi

/-- Beyond the vector its coefficients read 0, so a map that keeps 0 gives 0 there. -/
theorem map_getD_eq_ite {wc : Nat} (f : Int → BitVec wc) (hf : f 0 = 0) (cs : List Int) (i : Nat) :
    f (cs.getD i 0) = if i < cs.length then f (cs.getD i 0) else 0 := by
  split
  · rfl
  · next hi => rw [List.getD_eq_default _ _ (not_lt.mp hi), hf]

/-- The statement of a sampler into S, of the coefficients `f 0 .. f (DEGREE-1)`. -/
theorem completes_of_sampledS {i : Instr} {s : State} {cs : List Int} {f : Nat → Int}
    (hexec : exec i s = .next { s with blk := sampledS cs s.blk })
    (hlen : cs.length = s.blk.degree.toNat) (hf : ∀ k, cs.getD k 0 = f k) :
    Completes i s (fun b => OnlySChanged s.blk b ∧
      (∀ k, k < 701 → Memory.read b.sCells k
        = if k < s.blk.degree.toNat then BitVec.ofInt 32 (f k) else 0) ∧
      b.sDeg = s.blk.degree ∧ b.sMod = 8192) := by
  refine ⟨_, hexec, rfl, fun k hk => ?_, rfl, rfl⟩
  rw [read_sampledS cs _ hk, map_getD_eq_ite (BitVec.ofInt 32) rfl, hlen, hf]

/-- The statement of a sampler into U, of the coefficients `f 0 .. f (DEGREE-1)`. -/
theorem completes_of_sampledU {i : Instr} {s : State} {cs : List Int} {f : Nat → Int}
    (hexec : exec i s = .next { s with blk := sampledU cs s.blk })
    (hlen : cs.length = s.blk.degree.toNat) (hf : ∀ k, cs.getD k 0 = f k) :
    Completes i s (fun b => OnlyUChanged s.blk b ∧
      (∀ k, k < 701 → Memory.read b.uCells k
        = if k < s.blk.degree.toNat then down8192 (f k) else 0) ∧
      b.uDeg = s.blk.degree ∧ b.uMod = 8192) := by
  refine ⟨_, hexec, rfl, fun k hk => ?_, rfl, rfl⟩
  rw [read_sampledU cs _ hk, map_getD_eq_ite down8192 rfl, hlen, hf]

/-- Settles O27: the S buffer is the T vector, read cell by cell. -/
theorem sampleTWritesTheTVector : Obligations.SampleTWritesTheTVector :=
  ⟨rfl, rfl,
    fun s hd => completes_of_sampledS (exec_sampleT hd) (tVec_length _ _ _)
      (tVec_getD_eq_tCoeff s.blk),
    fun _ hd => raises_of_sampleIntoS rfl hd,
    fun _ b hn => sampleIntoS_of_paramN_ne hn _ b⟩

/-- Settles O28: the S buffer is the T+ vector, read cell by cell. -/
theorem sampleTPWritesTheTPlusVector : Obligations.SampleTPWritesTheTPlusVector :=
  ⟨rfl, rfl,
    fun s hd => completes_of_sampledS (exec_sampleTP hd) (tpVec_length _ _ _)
      (tpVec_getD_eq_tpCoeff s.blk),
    fun _ hd => raises_of_sampleIntoS rfl hd,
    fun _ b hn => sampleIntoS_of_paramN_ne hn _ b⟩

/-- Settles O29: the U buffer is the image of the T or T+ vector under `down8192`, read cell by
cell. -/
theorem samplersIntoUnsignedWriteTheDownedVectors :
    Obligations.SamplersIntoUnsignedWriteTheDownedVectors :=
  ⟨rfl, rfl, rfl,
    fun s hd =>
      ⟨completes_of_sampledU (exec_sampleTU hd) (tVec_length _ _ _) (tVec_getD_eq_tCoeff s.blk),
        completes_of_sampledU (exec_sampleTPU hd) (tpVec_length _ _ _)
          (tpVec_getD_eq_tpCoeff s.blk)⟩,
    fun _ hd => ⟨raises_of_sampleIntoU rfl hd, raises_of_sampleIntoU rfl hd⟩,
    fun _ b hn => ⟨sampleIntoU_of_paramN_ne hn _ b, sampleIntoU_of_paramN_ne hn _ b⟩⟩

/-! ## O33: the sampled polynomials -/

/-- A cell holds a coefficient in {-1, 0, 1} as its signed value. -/
theorem toInt_ofInt_of_isTrit {x : Int} (h : IsTrit x) : (BitVec.ofInt 32 x).toInt = x := by
  rcases h with rfl | rfl | rfl <;> rfl

/-- For a trit, `down8192` is what DOWN stores under the modulus tag 8192. -/
theorem down8192_of_isTrit {x : Int} (h : IsTrit x) :
    down8192 x = downWord (8192 : Word) (BitVec.ofInt 32 x) := by
  rw [downWord, toInt_ofInt_of_isTrit h]
  rfl

theorem liftWord_down8192 {x : Int} (h : IsTrit x) :
    liftWord (8192 : Word) (down8192 x) = BitVec.ofInt 32 x := by
  have hq : (8192 : Word).toNat = 8192 := rfl
  have hx := toInt_ofInt_of_isTrit h
  rw [down8192_of_isTrit h]
  exact liftWord_downWord (by rw [hx, hq]; omega) (by rw [hx, hq]; omega)

theorem sInt_sampledS {cs : List Int} {k : Nat} (b : Block) (hk : k < 701)
    (h : IsTrit (cs.getD k 0)) : sInt (sampledS cs b) k = cs.getD k 0 := by
  rw [sInt, read_sampledS cs b hk, toInt_ofInt_of_isTrit h]

/-- The signed view of U gives back the coefficient that was sampled. -/
theorem sv_sampledU {cs : List Int} {k : Nat} (b : Block) (hk : k < 701)
    (h : IsTrit (cs.getD k 0)) : sv (sampledU cs b) k = cs.getD k 0 := by
  have hmod : (sampledU cs b).uMod = 8192 := rfl
  rw [sv, ← liftWord_uCell, read_sampledU cs b hk, hmod, liftWord_down8192 h,
    toInt_ofInt_of_isTrit h]

section SampledPolynomial

variable {i : Instr} {s : State} {cs : Vector Word 8 → Nat → List Int}
  (hcs : ∀ seed d, TrinaryZeroTop d (cs seed d))
  (hmax : s.blk.degree.toNat ≤ 701)

include hcs hmax

/-- A command that samples a vector of the seed and DEGREE into S leaves a trinary polynomial with a
zero top, which another state with that seed and DEGREE gives too (44_sampler.md R179 (a) to (c)). -/
theorem sampledS_trinaryZeroTop (hd : 2 ≤ s.blk.degree.toNat)
    (hexec : ∀ s : State, 2 ≤ s.blk.degree.toNat →
      exec i s = .next { s with blk := sampledS (cs s.blk.seed s.blk.degree.toNat) s.blk }) :
    ∃ t, exec i s = .next t ∧
      (∀ k, k < s.blk.degree.toNat → IsTrit (sInt t.blk k)) ∧
      sInt t.blk (s.blk.degree.toNat - 2) = 0 ∧ sInt t.blk (s.blk.degree.toNat - 1) = 0 ∧
      (∀ s' t' : State, s'.blk.seed = s.blk.seed → s'.blk.degree = s.blk.degree →
        exec i s' = .next t' → t'.blk.sCells = t.blk.sCells ∧ t'.blk.sDeg = t.blk.sDeg ∧
          t'.blk.sMod = t.blk.sMod) := by
  have hvec := hcs s.blk.seed s.blk.degree.toNat
  refine ⟨_, hexec s hd, fun k hk => ?trit, ?top2, ?top1, fun s' t' hseed hdeg hs' => ?same⟩
  case trit =>
    rw [sInt_sampledS _ (by omega) (hvec.trit k)]
    exact hvec.trit k
  case top2 => rw [sInt_sampledS _ (by omega) (hvec.trit _), hvec.top _ (by omega)]
  case top1 => rw [sInt_sampledS _ (by omega) (hvec.trit _), hvec.top _ (by omega)]
  case same =>
    rw [hexec s' (hdeg ▸ hd), hseed, hdeg] at hs'
    cases hs'
    exact ⟨rfl, hdeg, rfl⟩

/-- GATE.U and ISTRI.U accept what such a command leaves in U (44_sampler.md R179). -/
theorem sampledU_accepted
    (hexec : exec i s = .next { s with blk := sampledU (cs s.blk.seed s.blk.degree.toNat) s.blk }) :
    ∃ t, exec i s = .next t ∧ exec .gateU t = .next t ∧ exec .istriU t = .next (answered t 1) := by
  have hvec := hcs s.blk.seed s.blk.degree.toNat
  have htri : isTrinary (uCoeffs (sampledU (cs s.blk.seed s.blk.degree.toNat) s.blk)) = true := by
    refine isTrinary_uCoeffs_iff.mpr fun k hk => ?_
    have hk' : k < s.blk.degree.toNat := hk
    rw [sv_sampledU _ (by omega) (hvec.trit k)]
    exact hvec.trit k
  refine ⟨_, hexec, exec_of_gate_passed rfl htri, exec_of_answer (by decide) ?_⟩
  rw [effect, istriU, if_pos htri]
  rfl

end SampledPolynomial

/-- The cells of a sampled polynomial have its vector's correlation sum. -/
theorem sum_sInt_sampledS {d : Nat} {cs : List Int} (h : TrinaryZeroTop d cs) (hmax : d ≤ 701)
    (b : Block) :
    ∑ k ∈ Finset.range (d - 2), sInt (sampledS cs b) k * sInt (sampledS cs b) (k + 1)
      = corrSum cs := by
  rw [corrSum_eq_sum, h.length_eq]
  refine Finset.sum_congr rfl fun k hk => ?_
  have hk' : k < d - 2 := Finset.mem_range.mp hk
  rw [sInt_sampledS b (by omega) (h.trit k), sInt_sampledS b (by omega) (h.trit (k + 1))]

/-- The correlation sum of SAMPLE_TP's polynomial is that of the T+ vector, an absolute value
(44_sampler.md R179 (d)). -/
theorem sampledTP_corrSum_nonneg {s t : State} (hd : 2 ≤ s.blk.degree.toNat)
    (hmax : s.blk.degree.toNat ≤ 701) (h : exec .sampleTP s = .next t) :
    0 ≤ ∑ k ∈ Finset.range (s.blk.degree.toNat - 2), sInt t.blk k * sInt t.blk (k + 1) := by
  rw [exec_sampleTP hd] at h
  cases h
  rw [sum_sInt_sampledS (tpVec_trinaryZeroTop _ _ _) hmax, tpVec, corrSum_canonicalize]
  exact abs_nonneg _

/-- Settles O33: both vectors are trinary with a zero top, T+ has its correlation made absolute, and
the signed view of U gives the sampled coefficients back. -/
theorem sampledPolynomialsAreTrinaryWithZeroTop :
    Obligations.SampledPolynomialsAreTrinaryWithZeroTop := by
  intro s hd hmax
  refine ⟨?intoS, fun t => sampledTP_corrSum_nonneg hd hmax, ?intoU⟩
  case intoS =>
    simp only [List.forall_mem_cons]
    exact ⟨sampledS_trinaryZeroTop (tVec_trinaryZeroTop _) hmax hd fun _ => exec_sampleT,
      sampledS_trinaryZeroTop (tpVec_trinaryZeroTop _) hmax hd fun _ => exec_sampleTP,
      List.forall_mem_nil _⟩
  case intoU =>
    simp only [List.forall_mem_cons]
    exact ⟨sampledU_accepted (tVec_trinaryZeroTop _) hmax (exec_sampleTU hd),
      sampledU_accepted (tpVec_trinaryZeroTop _) hmax (exec_sampleTPU hd),
      List.forall_mem_nil _⟩

end Sys2Proof.Proofs
end

section
/-! O35, O36: the uniform generator (45_uniform.md R190 to R192). -/

namespace Sys2Proof.Proofs

open Sys2Proof Sys2Proof.Machine Sys2Proof.Claims

/-! ## O36: the precondition check on the modulus -/

/-- The check accepts the powers of two from 1 to 2^16 (45_uniform.md R192). -/
theorem maskableModulus_iff {q : Nat} :
    maskableModulus q = true ↔ ∃ k, k ≤ 16 ∧ q = 2 ^ k := by
  simp [maskableModulus, Nat.lt_succ_iff]

section UniformAt

variable {wr wc ns : Nat} {c : Config} {q : Nat} {b : BlockOf wr wc ns}

theorem uniformAt_of_isPow (h : ∃ k, k ≤ 16 ∧ q = 2 ^ k) :
    uniformAt c q b = .ok (setU c b.degree (BitVec.ofNat wr q)
      ((uVec c (keyWords b.seed) b.degree.toNat q).map (BitVec.ofNat wc)) b) :=
  if_pos (maskableModulus_iff.mpr h)

theorem uniformAt_of_not_isPow (h : ¬ ∃ k, k ≤ 16 ∧ q = 2 ^ k) :
    uniformAt c q b = .error .modulusNotPow2 :=
  if_neg (mt maskableModulus_iff.mp h)

end UniformAt

/-- Settles O36: the check decides between the U write and the error, which settles as the error
record alone. -/
theorem modulusCheckAcceptsExactlyThePowersOfTwo :
    Obligations.ModulusCheckAcceptsExactlyThePowersOfTwo := by
  refine fun c q b => ⟨fun hnot => ?rejected, fun hpow => ⟨_, uniformAt_of_isPow hpow⟩⟩
  case rejected =>
    rw [uniformAt_of_not_isPow hnot, settle, raiseError]

/-! ## O35: UNIFORM under each configuration -/

section Uniform

variable {wr wc ns : Nat} {c : Config}

theorem uniform_of_paramN_ne (hn : c.paramN ≠ 701) (b : BlockOf wr wc ns) :
    uniform c b = .error .unsupportedParameter := by
  simp [uniform, paramQValue, derivedParam, hn]

/-- At n = 701 the modulus is 8192 = 2^13, which the check accepts (40_parameters.md R113). -/
theorem uniform_of_paramN_eq (hn : c.paramN = 701) (b : BlockOf wr wc ns) :
    uniform c b = .ok (setU c b.degree (BitVec.ofNat wr 8192)
      ((uVec c (keyWords b.seed) b.degree.toNat 8192).map (BitVec.ofNat wc)) b) := by
  have hpow : ∃ k, k ≤ 16 ∧ 8192 = 2 ^ k := ⟨13, by decide⟩
  rw [← uniformAt_of_isPow hpow]
  simp [uniform, paramQValue, derivedParam, hn]

/-- No configuration reaches MODULUS_NOT_POW2 (60_exceptions.md R208). -/
theorem uniform_ne_modulusNotPow2 (c : Config) (b : BlockOf wr wc ns) :
    uniform c b ≠ .error .modulusNotPow2 := by
  by_cases hn : c.paramN = 701
  · simp [uniform_of_paramN_eq hn]
  · simp [uniform_of_paramN_ne hn]

end Uniform

/-! ## O35: the uniform cells -/

/-- The mask q - 1 leaves a coefficient in [0, q) (45_uniform.md R190). -/
theorem uniformCoeff_lt (c : Config) (seed : Vector Word 8) {q : Nat} (hq : 0 < q) (i : Nat) :
    uniformCoeff c seed q i < q :=
  Nat.and_le_right.trans_lt (Nat.sub_one_lt_of_lt hq)

/-- A buffer filled with the words of `uVec` holds in each of its cells that index's coefficient,
and 0 from cell `d` on. -/
theorem read_ofList_uVec {wc : Nat} {c : Config} (seed : Vector Word 8) (d q : Nat) {i : Nat}
    (hi : i < c.nMax) :
    Memory.read (Memory.ofList c ((uVec c seed d q).map (BitVec.ofNat wc))) i
      = if i < d then BitVec.ofNat wc (uniformCoeff c seed q i) else 0 := by
  rw [read_ofList, if_pos hi]
  by_cases hd : i < d <;> simp [uVec, List.getD_eq_getElem?_getD, hd]

/-- The block after UNIFORM (45_uniform.md R191). -/
def uniformBlock (b : Block) : Block :=
  finish (setU Config.ntps1 b.degree 8192
    ((uVec Config.ntps1 b.seed b.degree.toNat 8192).map (BitVec.ofNat 32)) b)

theorem exec_uniform (s : State) :
    exec .uniform s = .next { s with blk := uniformBlock s.blk } := by
  rw [uniformBlock, ← keyWords_ntps1 s.blk.seed]
  exact exec_of_ok (uniform_of_paramN_eq paramN_ntps1 s.blk)

theorem read_uniformBlock (b : Block) {i : Nat} (hi : i < 701) :
    Memory.read (uniformBlock b).uCells i
      = if i < b.degree.toNat then
          BitVec.ofNat 32 (uniformCoeff Config.ntps1 b.seed 8192 i) else 0 :=
  read_ofList_uVec (c := Config.ntps1) _ _ _ hi

theorem uNat_uniformBlock_lt (b : Block) {i : Nat} (hi : i < 701) :
    uNat (uniformBlock b) i < 8192 := by
  rw [uNat, read_uniformBlock b hi]
  split
  · rw [BitVec.toNat_ofNat]
    exact (Nat.mod_le _ _).trans_lt (uniformCoeff_lt _ _ (by decide) i)
  · decide

/-- Settles O35: the U buffer is the uniform vector, read cell by cell; the one modulus a
configuration can have passes the check. -/
theorem uniformWritesTheMaskedChunks : Obligations.UniformWritesTheMaskedChunks :=
  ⟨rfl, rfl,
    fun s => ⟨_, exec_uniform s, rfl, fun _ => read_uniformBlock s.blk,
      fun _ => uNat_uniformBlock_lt s.blk, rfl, rfl⟩,
    fun _ b hn => uniform_of_paramN_ne hn b, fun c b => uniform_ne_modulusNotPow2 c b⟩

end Sys2Proof.Proofs
end

section
/-! O10, O37: which errors a command can raise (60_exceptions.md R203 to R206), and that every other
end of a command leaves the error record alone. -/

namespace Sys2Proof.Proofs

open Sys2Proof Sys2Proof.Machine Sys2Proof.Claims

section Outcomes

variable {wr wc ns : Nat}

/-- ERR and ERRCODE are the same in both blocks. -/
def SameErrorRecord (b b' : BlockOf wr wc ns) : Prop := b'.err = b.err ∧ b'.errCode = b.errCode

theorem SameErrorRecord.refl (b : BlockOf wr wc ns) : SameErrorRecord b b := ⟨rfl, rfl⟩

/-! ## What a command's effect can be -/

/-- The commands that test DEGREE (60_exceptions.md R205). -/
def samplers : List Instr := [.sampleT, .sampleTP, .sampleTU, .sampleTPU]

/-- The commands that query a derived value of the parameter set (60_exceptions.md R204). -/
def derivedValueQueries : List Instr :=
  [.paramLogq, .paramQ, .paramTritbits, .paramPkbits, .paramSkbits, .paramCtbits,
   .sampleT, .sampleTP, .sampleTU, .sampleTPU, .uniform]

theorem samplers_subset_derivedValueQueries : samplers ⊆ derivedValueQueries := by decide

/-- Everything the effect of command `i` on `b` can be: the block it leaves, with its error record
untouched, or one of the three errors a command raises, with what it takes to raise it. -/
inductive EffectOutcome (c : Config) (i : Instr) (b : BlockOf wr wc ns) :
    EffectOf wr wc ns → Prop
  | ok {b' : BlockOf wr wc ns} (hrecord : SameErrorRecord b b') : EffectOutcome c i b (.ok b')
  | unsupportedParameter (hn : c.paramN ≠ 701) (hi : i ∈ derivedValueQueries) :
      EffectOutcome c i b (.error .unsupportedParameter)
  | invalidDegree (hd : b.degree.toNat < 2) (hi : i ∈ samplers) :
      EffectOutcome c i b (.error .invalidDegree)
  | trinaryViolation (hi : i ∈ [Instr.gateS, .gateU]) :
      EffectOutcome c i b (.error .trinaryViolation)

variable {c : Config} {i : Instr} {b : BlockOf wr wc ns}

theorem answerDerived_outcome (hi : i ∈ derivedValueQueries) (v : Nat) :
    EffectOutcome c i b (answerDerived (derivedParam c v) b) := by
  by_cases hn : c.paramN = 701
  · rw [answerDerived_derivedParam_of_eq hn]
    exact .ok ⟨rfl, rfl⟩
  · rw [answerDerived_derivedParam_of_ne hn]
    exact .unsupportedParameter hn hi

/-- A gate over the coefficients `cs` writes nothing, pass or not (42_core.md R141, R142). -/
theorem gate_outcome (hi : i ∈ [Instr.gateS, .gateU]) (cs : List Int) :
    EffectOutcome c i b (if isTrinary cs then .ok b else .error .trinaryViolation) := by
  split
  · exact .ok (.refl b)
  · exact .trinaryViolation hi

/-- The samplers' checks in their order (44_sampler.md R175, 60_exceptions.md R202). -/
theorem samplerModulus_cases (c : Config) (b : BlockOf wr wc ns) :
    (c.paramN ≠ 701 ∧ samplerModulus c b = .error .unsupportedParameter) ∨
    (b.degree.toNat < 2 ∧ samplerModulus c b = .error .invalidDegree) ∨
    ∃ q, samplerModulus c b = .ok q := by
  by_cases hn : c.paramN = 701
  · by_cases hd : b.degree.toNat < 2 <;>
      simp [samplerModulus, paramQValue, derivedParam, hn, hd]
  · exact .inl ⟨hn, samplerModulus_of_paramN_ne hn b⟩

theorem sampleIntoS_eq_map (c : Config) (cs : BlockOf wr wc ns → List Int) (b : BlockOf wr wc ns) :
    sampleIntoS c cs b = (samplerModulus c b).map fun q =>
      setS c b.degree (BitVec.ofNat wr q) ((cs b).map (BitVec.ofInt wc)) b := by
  rw [sampleIntoS]
  cases samplerModulus c b <;> rfl

theorem sampleIntoU_eq_map (c : Config) (cs : BlockOf wr wc ns → List Int) (b : BlockOf wr wc ns) :
    sampleIntoU c cs b = (samplerModulus c b).map fun q =>
      setU c b.degree (BitVec.ofNat wr q)
        ((cs b).map fun x => BitVec.ofInt wc (downCoeff x q)) b := by
  rw [sampleIntoU]
  cases samplerModulus c b <;> rfl

/-- A sampler makes its checks and then writes `w q`, which leaves the error record alone. -/
theorem sampler_outcome (hi : i ∈ samplers) {r : EffectOf wr wc ns} {w : Nat → BlockOf wr wc ns}
    (hr : r = (samplerModulus c b).map w) (hw : ∀ q, SameErrorRecord b (w q)) :
    EffectOutcome c i b r := by
  obtain ⟨hn, hq⟩ | ⟨hd, hq⟩ | ⟨q, hq⟩ := samplerModulus_cases c b <;> rw [hr, hq]
  · exact .unsupportedParameter hn (samplers_subset_derivedValueQueries hi)
  · exact .invalidDegree hd hi
  · exact .ok (hw q)

theorem uniform_outcome : EffectOutcome c .uniform b (uniform c b) := by
  by_cases hn : c.paramN = 701
  · rw [uniform_of_paramN_eq hn]
    exact .ok ⟨rfl, rfl⟩
  · rw [uniform_of_paramN_ne hn]
    exact .unsupportedParameter hn (by decide)

theorem effect_outcome (c : Config) (i : Instr) (b : BlockOf wr wc ns) :
    EffectOutcome c i b (effect c i b) := by
  cases i with
  | zeroS | zeroU | initS | initU | lift | down | istriS | istriU | hammingS | hammingU | norm1S
  | norm1U | paramN | paramK | paramSeedbits | paramCoinbits | paramSkeybits =>
    exact .ok ⟨rfl, rfl⟩
  | gateS | gateU => exact gate_outcome (by decide) _
  | sampleT | sampleTP =>
    exact sampler_outcome (by decide) (sampleIntoS_eq_map c _ b) fun _ => ⟨rfl, rfl⟩
  | sampleTU | sampleTPU =>
    exact sampler_outcome (by decide) (sampleIntoU_eq_map c _ b) fun _ => ⟨rfl, rfl⟩
  | uniform => exact uniform_outcome
  | paramLogq | paramQ | paramTritbits | paramPkbits | paramSkbits | paramCtbits =>
    exact answerDerived_outcome (by decide) _

theorem sameErrorRecord_of_effect_ok {b' : BlockOf wr wc ns} (h : effect c i b = .ok b') :
    SameErrorRecord b b' := by
  have hout := effect_outcome c i b
  rw [h] at hout
  cases hout with
  | ok hrecord => exact hrecord

/-- No command raises the code 0 (60_exceptions.md R201). -/
theorem ne_noError_of_effect_error {e : ErrCode} (h : effect c i b = .error e) : e ≠ .noError := by
  have hout := effect_outcome c i b
  rw [h] at hout
  cases hout <;> decide

/-! ## UNSUPPORTED_PARAMETER -/

/-- Under another PARAM_N each query of a derived value raises the error, whatever the operands. -/
theorem effect_of_paramN_ne (hn : c.paramN ≠ 701) (b : BlockOf wr wc ns) :
    ∀ i ∈ derivedValueQueries, effect c i b = .error .unsupportedParameter := by
  simp only [derivedValueQueries, List.forall_mem_cons]
  refine ⟨?_, ?_, ?_, ?_, ?_, ?_, ?sampleT, ?sampleTP, ?sampleTU, ?sampleTPU, ?uniform,
    List.forall_mem_nil _⟩
  case sampleT | sampleTP => exact sampleIntoS_of_paramN_ne hn _ b
  case sampleTU | sampleTPU => exact sampleIntoU_of_paramN_ne hn _ b
  case uniform => exact uniform_of_paramN_ne hn b
  all_goals exact answerDerived_derivedParam_of_ne hn _ b

theorem effect_eq_unsupportedParameter_iff :
    effect c i b = .error .unsupportedParameter ↔ c.paramN ≠ 701 ∧ i ∈ derivedValueQueries := by
  refine ⟨fun h => ?_, fun ⟨hn, hi⟩ => effect_of_paramN_ne hn b i hi⟩
  have hout := effect_outcome c i b
  rw [h] at hout
  cases hout with
  | unsupportedParameter hn hi => exact ⟨hn, hi⟩

end Outcomes

/-- Settles O10: of the outcomes of a command's effect only a derived value's query under another
PARAM_N is this error, and there the query's first test raises it. -/
theorem unsupportedParameterIsRaisedByExactlyTheDerivedQueries :
    Obligations.UnsupportedParameterIsRaisedByExactlyTheDerivedQueries :=
  ⟨rfl, fun _ _ _ => effect_eq_unsupportedParameter_iff⟩

/-- Settles O37: a command ends with the error record of the error its effect is, which is not
NONE, or with the block its effect leaves, whose error record is the old one. -/
theorem errorRecordIsTheWholeEffectOfAnError :
    Obligations.ErrorRecordIsTheWholeEffectOfAnError := by
  intro i s t h
  obtain ⟨b, hok, rfl⟩ | ⟨e, herror, rfl⟩ := exec_cases h
  · obtain ⟨herr, hcode⟩ := sameErrorRecord_of_effect_ok hok
    exact .inr ⟨b, hok, herr, hcode, rfl⟩
  · exact .inl ⟨e, herror, ne_noError_of_effect_error herror, rfl⟩

end Sys2Proof.Proofs
end

section
/-! O40: no host input but a reset writes ERR or ERRCODE (10_state.md R25), and no command runs
while ERR = 1 (60_exceptions.md R209, R210). -/

namespace Sys2Proof.Proofs

open Sys2Proof Sys2Proof.Machine Sys2Proof.Claims

/-! ## The host's writes -/

section Writes

variable {wr wc ns : Nat} {c : Config} {v : BitVec wr} {f : BlockOf wr wc ns → BlockOf wr wc ns}
  {b : BlockOf wr wc ns}

theorem writeIdle_sameErrorRecord (hf : ∀ b, SameErrorRecord b (f b)) :
    SameErrorRecord b (writeIdle f b) := by
  rw [writeIdle]
  split
  · exact ⟨rfl, rfl⟩
  · exact hf b

theorem writeDegree_sameErrorRecord (hf : ∀ b, SameErrorRecord b (f b)) :
    SameErrorRecord b (writeDegree c v f b) := by
  refine writeIdle_sameErrorRecord fun b => ?_
  split
  · exact ⟨rfl, rfl⟩
  · exact hf b

theorem writeCmd_sameErrorRecord : SameErrorRecord b (writeCmd v b) := by
  rw [writeCmd]
  split <;> exact ⟨rfl, rfl⟩

theorem writeStatus_sameErrorRecord : SameErrorRecord b (writeStatus v b) := by
  rw [writeStatus]
  split <;> exact ⟨rfl, rfl⟩

/-- A write keeps ERR and ERRCODE, or it is a write of CTRL with bit 0 = 1. -/
theorem writeTarget_sameErrorRecord (c : Config) (v : BitVec wr) (t : Target)
    (b : BlockOf wr wc ns) :
    SameErrorRecord b (writeTarget c v t b) ∨ (t = .reg .ctrl ∧ v.getLsbD 0 = true) := by
  cases t with
  | reg r =>
    cases r with
    | ctrl =>
      by_cases hv : v.getLsbD 0 = true
      · exact .inr ⟨rfl, hv⟩
      · have hkept : writeTarget c v (.reg .ctrl) b = b := if_neg hv
        rw [hkept]
        exact .inl (.refl b)
    | status => exact .inl writeStatus_sameErrorRecord
    | cmd => exact .inl writeCmd_sameErrorRecord
    | degree | sDeg | uDeg => exact .inl (writeDegree_sameErrorRecord fun _ => ⟨rfl, rfl⟩)
    | dlabel | seed | sMod | uMod => exact .inl (writeIdle_sameErrorRecord fun _ => ⟨rfl, rfl⟩)
    | id | hwcfg | resultLo | resultHi => exact .inl (.refl b)
  | sCell | uCell => exact .inl (writeIdle_sameErrorRecord fun _ => ⟨rfl, rfl⟩)
  | reserved => exact .inl (.refl b)

end Writes

/-! ## The step -/

/-- A performed input keeps ERR and ERRCODE, or it is a reset. -/
theorem perform_sameErrorRecord {i : Input} {s t : State} (h : perform i s = .next t) :
    SameErrorRecord s.blk t.blk ∨ IsReset i := by
  obtain ⟨off, -, -, -, rfl⟩ | ⟨off, v, rfl, -, -, rfl⟩ | ⟨-, -, rfl⟩ | ⟨hi, -⟩ | ⟨hi, -⟩ :=
    perform_cases h
  case inl => exact .inl (.refl s.blk)
  case inr.inl =>
    refine (writeTarget_sameErrorRecord _ _ _ s.blk).imp_right fun ⟨hctrl, hv⟩ => ?_
    exact .inr (.inr ⟨off, v, rfl, eq_regOffset_of_targetAt hctrl, hv⟩)
  case inr.inr.inl =>
    rw [waitInput_blk]
    exact .inl (.refl s.blk)
  case inr.inr.inr.inl => exact .inr (.inl hi)
  case inr.inr.inr.inr => exact .inr (.inr (.inl hi))

/-- The engine's turn needs a BUSY command, which the invariant excludes while ERR = 1. -/
theorem engineTurn_eq_false_of_err {s : State} (hinv : Safety.Inv s) (herr : s.blk.err = true) :
    engineTurn s = false := by
  have hphase : s.blk.phase ≠ .busy := fun hbusy => by simp [hinv.blk.busy_ok hbusy] at herr
  simp [engineTurn, busyBit, hphase]

/-- Settles O40: the step is not the engine's, so it does nothing or performs the head of the
inputs, and an input that is no reset keeps ERR and ERRCODE. -/
theorem errorStaysUntilReset : Obligations.ErrorStaysUntilReset := by
  intro s t hinv herr h
  have hturn := engineTurn_eq_false_of_err hinv herr
  refine ⟨hturn, ?_⟩
  obtain ⟨hengine, -⟩ | ⟨-, -, rfl⟩ | ⟨i, rest, -, hin, hperf⟩ := step_cases h
  · simp [hturn] at hengine
  · exact .inl ⟨herr, rfl⟩
  · obtain ⟨hsame, hcode⟩ | hreset := perform_sameErrorRecord hperf
    · exact .inl ⟨hsame.trans herr, hcode⟩
    · exact .inr ⟨i, by simp [hin], hreset⟩

end Sys2Proof.Proofs
end

section
/-! What the reset family's statements share: what an offset of R21 names, the host's reads, and
everything a host write can do to HAZ and PHASE. -/

namespace Sys2Proof.Proofs

open Sys2Proof Sys2Proof.Machine Sys2Proof.Claims

/-! ## BUSY -/

theorem busyBit_iff {b : Block} : busyBit b = true ↔ b.phase = .busy := beq_iff_eq

@[simp] theorem busyBit_reset (c : Config) : busyBit (Block.reset c : Block) = false := rfl

/-! ## The offsets -/

/-- Every register of R21 stands at an offset the block answers. -/
theorem answered_of_eq_regOffset {off : Offset} {r : Reg} (h : off.toNat = regOffset r) :
    Answered off := by
  cases r <;> simp only [regOffset] at h <;> omega

/-- An aligned offset from 0x1000 to 0x1AF0 names an S cell (10_state.md R38). -/
theorem targetAt_sCell_of_offset {o : Nat} (ha : o % 4 = 0) (hlo : 0x1000 ≤ o) (hhi : o ≤ 0x1AF0) :
    ∃ i, targetAt Config.ntps1 o = .sCell i := by
  obtain ⟨i, rfl⟩ : ∃ i, o = 0x1000 + 4 * i := ⟨(o - 0x1000) / 4, by omega⟩
  exact ⟨i, targetAt_sOffset (by omega)⟩

/-- An aligned offset from 0x2000 to 0x2AF0 names a U cell (10_state.md R39). -/
theorem targetAt_uCell_of_offset {o : Nat} (ha : o % 4 = 0) (hlo : 0x2000 ≤ o) (hhi : o ≤ 0x2AF0) :
    ∃ i, targetAt Config.ntps1 o = .uCell i := by
  obtain ⟨i, rfl⟩ : ∃ i, o = 0x2000 + 4 * i := ⟨(o - 0x2000) / 4, by omega⟩
  exact ⟨i, targetAt_uOffset (by omega)⟩

/-- An aligned offset names an S cell only if it is that cell's offset (20_memory.md R63). -/
theorem eq_sOffset_of_targetAt {o i : Nat} (ha : o % 4 = 0)
    (h : targetAt Config.ntps1 o = .sCell i) : o = sOffset i := by
  unfold targetAt at h
  split_ifs at h with hreg hs
  case pos => split at h <;> cases h
  cases h
  simp only [sOffset, cellBytes_ntps1]
  omega

/-- An aligned offset names a U cell only if it is that cell's offset (20_memory.md R63). -/
theorem eq_uOffset_of_targetAt {o i : Nat} (ha : o % 4 = 0)
    (h : targetAt Config.ntps1 o = .uCell i) : o = uOffset i := by
  unfold targetAt at h
  split_ifs at h with hreg hs hu
  case pos => split at h <;> cases h
  cases h
  simp only [uOffset, cellBytes_ntps1]
  omega

/-- Only the offsets of RESULT, the tags and the cells name a target of R240. -/
theorem unstableOffset_of_targetAt {o : Nat} (ha : o % 4 = 0)
    (h : unstableWhileBusy (targetAt Config.ntps1 o) = true) : UnstableOffset o := by
  cases ht : targetAt Config.ntps1 o with
  | reg r =>
    have ho := eq_regOffset_of_targetAt ht
    rw [ht] at h
    cases r with
    | resultLo | resultHi | sDeg | sMod | uDeg | uMod => simp only [regOffset] at ho; omega
    | id | hwcfg | ctrl | status | cmd | degree | dlabel | seed => cases h
  | sCell i =>
    have hi : i < 701 := targetAt_cell_lt (.inl ht)
    have ho := eq_sOffset_of_targetAt ha ht
    rw [sOffset] at ho
    omega
  | uCell i =>
    have hi : i < 701 := targetAt_cell_lt (.inr ht)
    have ho := eq_uOffset_of_targetAt ha ht
    rw [uOffset] at ho
    omega
  | reserved =>
    rw [ht] at h
    cases h

/-! ## Reads -/

@[simp] theorem readInput_inputs (c : Config) (t : Target) (s : State) :
    (readInput c t s).env.inputs = s.env.inputs := by
  unfold readInput
  dsimp only
  split <;> rfl

@[simp] theorem readInput_replies (c : Config) (t : Target) (s : State) :
    (readInput c t s).env.replies = readValue c s.blk s.env.draws t :: s.env.replies := by
  unfold readInput
  dsimp only
  split <;> rfl

/-- A read that is no draw returns the word held (20_memory.md R66). -/
theorem readValue_eq_held {b : Block} {o n : Nat}
    (h : readIsDraw b (targetAt Config.ntps1 o) = false) :
    readValue Config.ntps1 b n (targetAt Config.ntps1 o) = held b o := by
  simp [readValue, h, held]

/-- A read is no draw unless the block is BUSY and the target one of R240. -/
theorem readIsDraw_eq_false_iff {b : Block} {t : Target} :
    readIsDraw b t = false ↔ (b.phase = .busy → unstableWhileBusy t = false) := by
  rw [readIsDraw, Bool.and_eq_false_imp, busyBit_iff]

/-- An answered read that comes next is the read of its target. -/
theorem step_of_hostNext_read {s : State} {off : Offset}
    (h : HostNext s (.read .w32 off)) (ha : Answered off) :
    step s = .next (readInput Config.ntps1 (targetAt Config.ntps1 off.toNat) (inputTaken s)) := by
  have hanswered : refusalOf Config.ntps1 .w32 off = none := refusalOf_eq_none.mpr ⟨rfl, ha⟩
  have hreset : (inputTaken s).env.inReset = false := h.1
  rw [step_of_hostNext h]
  simp [perform, hostAccess, hreset, hanswered]

/-! ## The hazards -/

/-- The targets whose writes are dropped while BUSY by hazard H3 (70_reset_and_hazards.md R241):
the operand registers, the tags and the cells. -/
def isOperand : Target → Bool
  | .reg .degree | .reg .dlabel | .reg (.seed _) => true
  | .reg .sDeg | .reg .sMod | .reg .uDeg | .reg .uMod => true
  | .reg _ => false
  | .sCell _ | .uCell _ => true
  | .reserved => false

/-- What the host must not write while BUSY is CMD and the operands (R242). -/
theorem forbiddenWhileBusy_write (w : Width) (off : Offset) (v : Word) :
    Safety.forbiddenWhileBusy (.write w off v) =
      (targetAt Config.ntps1 off.toNat == .reg .cmd ||
        isOperand (targetAt Config.ntps1 off.toNat)) := by
  rw [Safety.forbiddenWhileBusy]
  cases targetAt Config.ntps1 off.toNat with
  | reg r => cases r <;> rfl
  | sCell | uCell | reserved => rfl

/-- The aligned offsets of H3 name operands. -/
theorem isOperand_of_storedOffset {o : Nat} (ha : o % 4 = 0) (h : StoredOffset o) :
    isOperand (targetAt Config.ntps1 o) = true := by
  have register : ∀ r, o = regOffset r → isOperand (.reg r) = true →
      isOperand (targetAt Config.ntps1 o) = true := by
    rintro r rfl hr
    rwa [targetAt_regOffset]
  obtain hdeg | hlabel | hseed | htag | hs | hu := h
  · exact register .degree hdeg rfl
  · exact register .dlabel hlabel rfl
  · exact register (.seed ⟨(o - 0x020) / 4, by omega⟩) (by simp only [regOffset]; omega) rfl
  · obtain h | h | h | h : o = 0x048 ∨ o = 0x04C ∨ o = 0x050 ∨ o = 0x054 := by omega
    · exact register .sDeg h rfl
    · exact register .sMod h rfl
    · exact register .uDeg h rfl
    · exact register .uMod h rfl
  · obtain ⟨i, hi⟩ := targetAt_sCell_of_offset ha hs.1 hs.2
    rw [hi]
    rfl
  · obtain ⟨i, hi⟩ := targetAt_uCell_of_offset ha hu.1 hu.2
    rw [hi]
    rfl

/-- The registers with the legal values 0 .. N_MAX (10_state.md R27, R31, R33). -/
def degreeRegs : List Reg := [.degree, .sDeg, .uDeg]

theorem isOperand_of_mem_degreeRegs : ∀ r ∈ degreeRegs, isOperand (.reg r) = true := by decide

theorem exists_degreeRegs_iff {o : Nat} : (∃ r ∈ degreeRegs, o = regOffset r) ↔ DegreeOffset o := by
  simp [degreeRegs, regOffset]

/-- A write of `v` to the target in `b` is a hazard of 70_reset_and_hazards.md R241. -/
inductive Hazard (c : Config) (v : Word) (b : Block) : Target → Prop
  | cmdWhileBusy (hbusy : b.phase = .busy) : Hazard c v b (.reg .cmd)
  | cmdInError (herr : b.err = true) : Hazard c v b (.reg .cmd)
  | operandWhileBusy {t : Target} (ht : isOperand t = true) (hbusy : b.phase = .busy) :
      Hazard c v b t
  | degreeAboveMax {r : Reg} (hr : r ∈ degreeRegs) (hv : c.nMax < v.toNat) : Hazard c v b (.reg r)

theorem Hazard.cmd_or_operand {c : Config} {v : Word} {b : Block} {t : Target}
    (h : Hazard c v b t) : t = .reg .cmd ∨ isOperand t = true := by
  cases h with
  | cmdWhileBusy | cmdInError => exact .inl rfl
  | operandWhileBusy ht => exact .inr ht
  | degreeAboveMax hr => exact .inr (isOperand_of_mem_degreeRegs _ hr)

section Writes

variable {c : Config} {v : Word} {b : Block} {f : Block → Block}

theorem writeDegree_of_aboveMax (hv : c.nMax < v.toNat) : writeDegree c v f b = setHazard b := by
  simp [writeDegree, writeIdle, hv]

theorem writeTarget_of_isOperand_of_busy {t : Target} (ht : isOperand t = true)
    (hbusy : b.phase = .busy) : writeTarget c v t b = setHazard b := by
  have hbit : busyBit b = true := busyBit_iff.mpr hbusy
  cases t with
  | reg r =>
    cases r with
    | degree | sDeg | uDeg | dlabel | seed | sMod | uMod => exact if_pos hbit
    | id | hwcfg | ctrl | status | cmd | resultLo | resultHi => cases ht
  | sCell | uCell => exact if_pos hbit
  | reserved => cases ht

theorem writeReg_degreeRegs_of_aboveMax (hv : c.nMax < v.toNat) :
    ∀ r ∈ degreeRegs, writeReg c v r b = setHazard b := by
  simp [degreeRegs, writeReg, writeDegree_of_aboveMax hv]

/-- A hazardous write is dropped and sets HAZ, whichever of the hazards it meets. -/
theorem writeTarget_of_hazard {t : Target} (h : Hazard c v b t) :
    writeTarget c v t b = setHazard b := by
  cases h with
  | cmdWhileBusy hbusy => exact writeCmd_of_not_accepted (by simp [hbusy])
  | cmdInError herr => exact writeCmd_of_not_accepted (by simp [herr])
  | operandWhileBusy ht hbusy => exact writeTarget_of_isOperand_of_busy ht hbusy
  | degreeAboveMax hr hv => exact writeReg_degreeRegs_of_aboveMax hv _ hr

/-- Everything a write of `v` to the target in `b` can do to HAZ and PHASE: set HAZ by a hazard,
start a command, clear HAZ, reset the block, or leave both alone. -/
inductive WriteOutcome (c : Config) (v : Word) (b : Block) : Target → Block → Prop
  | hazard {t : Target} (h : Hazard c v b t) : WriteOutcome c v b t (setHazard b)
  | command : WriteOutcome c v b (.reg .cmd) { b with phase := .busy, lcmd := v }
  | hazardCleared (hv : v.getLsbD 2 = true) :
      WriteOutcome c v b (.reg .status) { b with haz := false }
  | softReset (hv : v.getLsbD 0 = true) : WriteOutcome c v b (.reg .ctrl) (Block.reset c)
  | kept {t : Target} {b' : Block} (hhaz : b'.haz = b.haz) (hphase : b'.phase = b.phase) :
      WriteOutcome c v b t b'

theorem writeIdle_outcome {t : Target} (ht : isOperand t = true)
    (hf : WriteOutcome c v b t (f b)) : WriteOutcome c v b t (writeIdle f b) := by
  rw [writeIdle]
  split
  case isTrue hbusy => exact .hazard (.operandWhileBusy ht (busyBit_iff.mp hbusy))
  case isFalse => exact hf

theorem writeDegree_outcome {r : Reg} (hr : r ∈ degreeRegs)
    (hf : WriteOutcome c v b (.reg r) (f b)) :
    WriteOutcome c v b (.reg r) (writeDegree c v f b) := by
  refine writeIdle_outcome (isOperand_of_mem_degreeRegs r hr) ?_
  split
  case isTrue hv => exact .hazard (.degreeAboveMax hr hv)
  case isFalse => exact hf

theorem writeCmd_outcome : WriteOutcome c v b (.reg .cmd) (writeCmd v b) := by
  by_cases hfree : b.phase = .idle ∧ b.err = false
  · rw [writeCmd_of_accepted hfree]
    exact .command
  · rw [writeCmd_of_not_accepted hfree]
    refine .hazard ?_
    cases hp : b.phase with
    | busy => exact .cmdWhileBusy hp
    | idle => exact .cmdInError (by simpa [hp] using hfree)

theorem writeStatus_outcome : WriteOutcome c v b (.reg .status) (writeStatus v b) := by
  rw [writeStatus]
  split
  case isTrue hv => exact .hazardCleared hv
  case isFalse => exact .kept rfl rfl

/-- The soft reset bit of CTRL (10_state.md R24). -/
theorem writeReg_ctrl_of_set (hv : v.getLsbD 0 = true) : writeReg c v .ctrl b = Block.reset c :=
  if_pos hv

theorem writeReg_ctrl_of_clear (hv : v.getLsbD 0 = false) : writeReg c v .ctrl b = b :=
  if_neg (Bool.eq_false_iff.mp hv)

theorem writeTarget_outcome (c : Config) (v : Word) (b : Block) (t : Target) :
    WriteOutcome c v b t (writeTarget c v t b) := by
  cases t with
  | reg r =>
    rw [writeTarget]
    cases r with
    | ctrl =>
      cases hv : v.getLsbD 0 with
      | true =>
        rw [writeReg_ctrl_of_set hv]
        exact .softReset hv
      | false =>
        rw [writeReg_ctrl_of_clear hv]
        exact .kept rfl rfl
    | status => exact writeStatus_outcome
    | cmd => exact writeCmd_outcome
    | degree | sDeg | uDeg => 
      refine writeDegree_outcome (by decide) ?_
      exact .kept rfl rfl
    | dlabel | seed | sMod | uMod =>
      rw [writeReg]
      refine writeIdle_outcome rfl ?_
      exact .kept rfl rfl
    | id | hwcfg | resultLo | resultHi => exact .kept rfl rfl
  | sCell | uCell =>
    rw [writeTarget]
    refine writeIdle_outcome rfl ?_
    exact .kept rfl rfl
  | reserved => exact .kept rfl rfl

/-- A write leaves the block BUSY only if it was BUSY or the write is to CMD. -/
theorem busyBit_writeTarget {t : Target}
    (h : busyBit (writeTarget c v t b) = true) : busyBit b = true ∨ t = .reg .cmd := by
  have hout := writeTarget_outcome c v b t
  generalize writeTarget c v t b = b' at h hout
  rw [busyBit_iff] at h ⊢
  cases hout with
  | command => exact .inr rfl
  | hazard | hazardCleared => exact .inl h
  | softReset => cases h
  | kept _ hphase => exact .inl (hphase ▸ h)

/-- A write leaves HAZ set only if it was set or the write is a hazard. -/
theorem haz_writeTarget {t : Target} (h : (writeTarget c v t b).haz = true) :
    b.haz = true ∨ Hazard c v b t := by
  have hout := writeTarget_outcome c v b t
  generalize writeTarget c v t b = b' at h hout
  cases hout with
  | hazard hhazard => exact .inr hhazard
  | command => exact .inl h
  | hazardCleared | softReset => cases h
  | kept hhaz => exact .inl (hhaz ▸ h)

/-- Only a write of STATUS with bit 2 = 1 or of CTRL with bit 0 = 1 clears HAZ. -/
theorem writeTarget_keeps_haz {t : Target} (h : b.haz = true) :
    (writeTarget c v t b).haz = true ∨ (t = .reg .status ∧ v.getLsbD 2 = true) ∨
      (t = .reg .ctrl ∧ v.getLsbD 0 = true) := by
  have hout := writeTarget_outcome c v b t
  generalize writeTarget c v t b = b' at hout ⊢
  cases hout with
  | hazard => exact .inl rfl
  | command => exact .inl h
  | hazardCleared hv => exact .inr (.inl ⟨rfl, hv⟩)
  | softReset hv => exact .inr (.inr ⟨rfl, hv⟩)
  | kept hhaz => exact .inl (hhaz.trans h)

end Writes

/-- A write to the offset of a register that comes next leaves the block the register's write
gives. -/
theorem performs_writeReg {s : State} {off : Offset} {v : Word} {r : Reg}
    (h : HostNext s (.write .w32 off v)) (hoff : off.toNat = regOffset r) :
    Performs s (writeReg Config.ntps1 v r s.blk) := by
  have hperf := performs_write h (answered_of_eq_regOffset hoff)
  rwa [hoff, targetAt_regOffset] at hperf

end Sys2Proof.Proofs
end

section
/-! No command writes HAZ, so an engine step keeps it (70_reset_and_hazards.md R241). -/

namespace Sys2Proof.Proofs

open Sys2Proof Sys2Proof.Machine Sys2Proof.Claims

section Commands

variable {wr wc ns : Nat} {c : Config} {b : BlockOf wr wc ns}

/-- The effect leaves a block with the HAZ of `b`, or raises an error. -/
def KeepsHaz (b : BlockOf wr wc ns) : EffectOf wr wc ns → Prop
  | .ok b' => b'.haz = b.haz
  | .error _ => True

theorem gate_keepsHaz (cs : List Int) :
    KeepsHaz b (if isTrinary cs then .ok b else .error .trinaryViolation) := by
  split
  · rfl
  · trivial

theorem sampler_keepsHaz {r : EffectOf wr wc ns} {w : Nat → BlockOf wr wc ns}
    (hr : r = (samplerModulus c b).map w) (hw : ∀ q, (w q).haz = b.haz) : KeepsHaz b r := by
  rw [hr]
  cases samplerModulus c b with
  | ok q => exact hw q
  | error => trivial

theorem answerDerived_keepsHaz : ∀ v : Except ErrCode Nat, KeepsHaz b (answerDerived v b)
  | .ok _ => rfl
  | .error _ => trivial

theorem uniform_keepsHaz : KeepsHaz b (uniform c b) := by
  by_cases hn : c.paramN = 701
  · rw [uniform_of_paramN_eq hn]
    rfl
  · rw [uniform_of_paramN_ne hn]
    trivial

theorem effect_keepsHaz (c : Config) (i : Instr) (b : BlockOf wr wc ns) :
    KeepsHaz b (effect c i b) := by
  cases i with
  | zeroS | zeroU | initS | initU | lift | down | istriS | istriU | hammingS | hammingU | norm1S
  | norm1U | paramN | paramK | paramSeedbits | paramCoinbits | paramSkeybits => rfl
  | gateS | gateU => exact gate_keepsHaz _
  | sampleT | sampleTP =>
    exact sampler_keepsHaz (sampleIntoS_eq_map c _ b) fun _ => rfl
  | sampleTU | sampleTPU =>
    exact sampler_keepsHaz (sampleIntoU_eq_map c _ b) fun _ => rfl
  | uniform => exact uniform_keepsHaz
  | paramLogq | paramQ | paramTritbits | paramPkbits | paramSkbits | paramCtbits =>
    exact answerDerived_keepsHaz _

end Commands

/-- An engine step ends IDLE and keeps HAZ and the environment, error or not. -/
theorem engineStep_frame {s t : State} (h : engineStep s = .next t) :
    t.blk.phase = .idle ∧ t.blk.haz = s.blk.haz ∧ t.env = s.env := by
  cases hd : decode s.blk.lcmd with
  | ok i =>
    rw [engineStep, hd] at h
    obtain ⟨b, hok, rfl⟩ | ⟨e, -, rfl⟩ := exec_cases h
    · have hhaz := effect_keepsHaz Config.ntps1 i s.blk
      rw [hok] at hhaz
      exact ⟨rfl, hhaz, rfl⟩
    · exact ⟨rfl, rfl, rfl⟩
  | error e =>
    rw [engineStep, hd] at h
    cases h
    exact ⟨rfl, rfl, rfl⟩

end Sys2Proof.Proofs
end

section
/-! O56: a host that keeps its duty (70_reset_and_hazards.md R242). The one idea: what keeps the
duty while a command may be BUSY keeps it while none is. -/

namespace Sys2Proof.Proofs

open Sys2Proof Sys2Proof.Machine Sys2Proof.Claims Sys2Proof.Safety

/-! ## The duty over the inputs to come -/

theorem keepsDuty_cons {outstanding : Bool} {i : Input} {rest : List Input} :
    keepsDuty outstanding (i :: rest) = true ↔
      (outstanding = true → forbiddenWhileBusy i = false) ∧
        keepsDuty ((outstanding && !endsCommand i) || startsCommand i) rest = true := by
  cases outstanding <;> simp [keepsDuty]

/-- The duty only gets weaker when a command is no longer outstanding. -/
theorem keepsDuty_mono {is : List Input} {o o' : Bool} (ho : o' = true → o = true)
    (h : keepsDuty o is = true) : keepsDuty o' is = true := by
  induction is generalizing o o' with
  | nil => rfl
  | cons i rest ih =>
    obtain ⟨hi, hrest⟩ := keepsDuty_cons.mp h
    refine keepsDuty_cons.mpr ⟨fun h' => hi (ho h'), ih ?_ hrest⟩
    simp only [Bool.or_eq_true, Bool.and_eq_true]
    exact Or.imp_left (And.imp_left ho)

/-! ## One input -/

/-- A WAIT stays at the head of the inputs exactly while BUSY (30_encoding.md R92). -/
theorem waitInput_inputs (c : Config) (s : State) :
    (waitInput c s).env.inputs = if busyBit s.blk then .wait :: s.env.inputs else s.env.inputs := by
  rw [waitInput, readInput_inputs]
  split <;> rfl

theorem perform_dutyKept {i : Input} {s t : State} (h : perform i s = .next t)
    (hduty : keepsDuty (busyBit s.blk) (i :: s.env.inputs) = true) : DutyKept t := by
  obtain ⟨-, hrest⟩ := keepsDuty_cons.mp hduty
  rw [DutyKept]
  obtain ⟨off, rfl, -, -, rfl⟩ | ⟨off, v, rfl, -, -, rfl⟩ | ⟨rfl, -, rfl⟩ | ⟨rfl, rfl⟩ |
    ⟨rfl, rfl⟩ := perform_cases h
  case inl =>
    rw [readInput_blk, readInput_inputs]
    simpa [endsCommand, startsCommand] using hrest
  case inr.inl =>
    rw [writeInput_blk, writeInput_inputs]
    refine keepsDuty_mono (fun hbusy => ?_) hrest
    simpa [endsCommand, startsCommand] using busyBit_writeTarget hbusy
  case inr.inr.inl =>
    rw [waitInput_blk, waitInput_inputs]
    split
    case isTrue hbusy => exact hduty
    case isFalse hidle =>
      rw [Bool.not_eq_true] at hidle
      simpa [hidle, startsCommand] using hrest
  case inr.inr.inr.inl => exact keepsDuty_mono (by simp) hrest
  case inr.inr.inr.inr => exact keepsDuty_mono (by simp) hrest

/-- A performed input that leaves HAZ set found it set or is a hazardous write. -/
theorem perform_haz {i : Input} {s t : State} (h : perform i s = .next t)
    (hhaz : t.blk.haz = true) : s.blk.haz = true ∨ ∃ off v, i = .write .w32 off v ∧
      Hazard Config.ntps1 v s.blk (targetAt Config.ntps1 off.toNat) := by
  obtain ⟨off, -, -, -, rfl⟩ | ⟨off, v, rfl, -, -, rfl⟩ | ⟨-, -, rfl⟩ | ⟨-, rfl⟩ | ⟨-, rfl⟩ :=
    perform_cases h
  case inl => exact .inl hhaz
  case inr.inl =>
    rw [writeInput_blk] at hhaz
    exact (haz_writeTarget hhaz).imp_right fun hhazard => ⟨off, v, rfl, hhazard⟩
  case inr.inr.inl => exact .inl (by rwa [waitInput_blk] at hhaz)
  case inr.inr.inr.inl => cases hhaz
  case inr.inr.inr.inr => cases hhaz

/-- A write that is a hazard is one the host must not make while BUSY. -/
theorem forbiddenWhileBusy_of_hazard {off : Offset} {v : Word} {b : Block}
    (h : Hazard Config.ntps1 v b (targetAt Config.ntps1 off.toNat)) :
    forbiddenWhileBusy (.write .w32 off v) = true := by
  rw [forbiddenWhileBusy_write, Bool.or_eq_true, beq_iff_eq]
  exact h.cmd_or_operand

/-- A hazard of a write that the duty allows is H2 or H4, and no command is BUSY. -/
theorem hazard_of_not_forbidden {off : Offset} {v : Word} {b : Block}
    (hallowed : b.phase = .busy → forbiddenWhileBusy (.write .w32 off v) = false)
    (h : Hazard Config.ntps1 v b (targetAt Config.ntps1 off.toNat)) :
    b.phase = .idle ∧ ((off.toNat = 0x010 ∧ b.err = true) ∨
      (DegreeOffset off.toNat ∧ 701 < v.toNat)) := by
  have hidle : b.phase = .idle := by
    cases hp : b.phase with
    | idle => rfl
    | busy => exact absurd (hallowed hp) (by simp [forbiddenWhileBusy_of_hazard h])
  refine ⟨hidle, ?_⟩
  generalize ht : targetAt Config.ntps1 off.toNat = t at h
  cases h with
  | cmdWhileBusy hbusy => simp [hidle] at hbusy
  | operandWhileBusy _ hbusy => simp [hidle] at hbusy
  | cmdInError herr => exact .inl ⟨eq_regOffset_of_targetAt ht, herr⟩
  | degreeAboveMax hr hv =>
    exact .inr ⟨exists_degreeRegs_iff.mp ⟨_, hr, eq_regOffset_of_targetAt ht⟩, hv⟩

/-- A read that the duty allows returns the word held. -/
theorem perform_read_replies {off : Offset} {s t : State}
    (h : perform (.read .w32 off) s = .next t)
    (hallowed : s.blk.phase = .busy → forbiddenWhileBusy (.read .w32 off) = false) :
    t.env.replies = held s.blk off.toNat :: s.env.replies := by
  obtain ⟨off, ⟨⟩, -, -, rfl⟩ | ⟨_, _, ⟨⟩, -⟩ | ⟨⟨⟩, -⟩ | ⟨⟨⟩, -⟩ | ⟨⟨⟩, -⟩ := perform_cases h
  rw [readInput_replies, readValue_eq_held (readIsDraw_eq_false_iff.mpr hallowed)]

/-! ## The step -/

/-- Settles O56: the engine's step ends IDLE and keeps HAZ; an input keeps the duty over the inputs
behind it, and one that the duty allows while BUSY is no hazard H1 or H3 and no draw. -/
theorem dutifulHostCausesNoBusyHazardAndReadsNoDraw :
    Obligations.DutifulHostCausesNoBusyHazardAndReadsNoDraw := by
  intro s t hduty h
  obtain ⟨hengine, hstep⟩ | ⟨-, hin, rfl⟩ | ⟨i, rest, -, hin, hperf⟩ := step_cases h
  case inl =>
    obtain ⟨hidle, hhaz, henv⟩ := engineStep_frame hstep
    refine ⟨?_, fun h' => .inl (hhaz ▸ h'), fun off hturn => ?_⟩
    · rw [DutyKept, henv]
      exact keepsDuty_mono (by simp [busyBit, hidle]) hduty
    · simp [hengine] at hturn
  case inr.inl => exact ⟨hduty, .inl, fun off _ hread => by simp [hin] at hread⟩
  case inr.inr =>
    rw [DutyKept, hin] at hduty
    have hallowed : s.blk.phase = .busy → forbiddenWhileBusy i = false := fun hbusy =>
      (keepsDuty_cons.mp hduty).1 (busyBit_iff.mpr hbusy)
    refine ⟨perform_dutyKept hperf hduty, fun hhaz => ?_, fun off _ hread => ?_⟩
    · refine (perform_haz hperf hhaz).imp_right ?_
      rintro ⟨off, v, rfl, hhazard⟩
      exact ⟨off, v, by simp [hin], hazard_of_not_forbidden hallowed hhazard⟩
    · obtain rfl : i = .read .w32 off := by simpa [hin] using hread
      exact (perform_read_replies hperf hallowed :)

end Sys2Proof.Proofs
end

section
/-! O43: the host's reads (70_reset_and_hazards.md R240, 20_memory.md R66). -/

namespace Sys2Proof.Proofs

open Sys2Proof Sys2Proof.Machine Sys2Proof.Claims

/-- CTRL and CMD read 0, BUSY or not (10_state.md R24, R26). -/
theorem readValue_of_writeOnly {c : Config} {b : Block} {o n : Nat} (h : o = 0x008 ∨ o = 0x010) :
    readValue c b n (targetAt c o) = 0 := by
  have register : ∀ r : Reg, o = regOffset r → unstableWhileBusy (.reg r) = false →
      readReg c b r = 0 → readValue c b n (targetAt c o) = 0 := by
    rintro r rfl hstable hr
    simp [targetAt_regOffset, readValue, readIsDraw, hstable, readTarget, hr]
  obtain hctrl | hcmd := h
  · exact register .ctrl hctrl rfl rfl
  · exact register .cmd hcmd rfl rfl

/-- Settles O43: the step is the read of the offset's target, and only a target of R240 makes it a
draw. -/
theorem readsReturnTheHeldWordAndChangeNothing :
    Obligations.ReadsReturnTheHeldWordAndChangeNothing := by
  intro s off h ha
  refine ⟨_, _, step_of_hostNext_read h ha, rfl, readInput_replies _ _ _, by simp [inputTaken],
    fun hheld => readValue_eq_held (readIsDraw_eq_false_iff.mpr fun hbusy => ?_),
    readValue_of_writeOnly⟩
  obtain hidle | hstable := hheld
  · simp [inputTaken, hidle] at hbusy
  · exact Bool.eq_false_iff.mpr fun hunstable =>
      hstable (unstableOffset_of_targetAt ha.1 hunstable)

end Sys2Proof.Proofs
end

section
/-! O45: the hazards H1 to H4 (70_reset_and_hazards.md R241). -/

namespace Sys2Proof.Proofs

open Sys2Proof Sys2Proof.Machine Sys2Proof.Claims

/-- A performed input keeps HAZ set, or it is a reset or a write of STATUS with bit 2 = 1. -/
theorem perform_keeps_haz {i : Input} {s t : State} (h : perform i s = .next t)
    (hhaz : s.blk.haz = true) : t.blk.haz = true ∨ IsReset i ∨
      ∃ off v, i = .write .w32 off v ∧ off.toNat = 0x00C ∧ v.getLsbD 2 = true := by
  obtain ⟨off, -, -, -, rfl⟩ | ⟨off, v, rfl, -, -, rfl⟩ | ⟨-, -, rfl⟩ | ⟨hi, -⟩ | ⟨hi, -⟩ :=
    perform_cases h
  case inl => exact .inl hhaz
  case inr.inl =>
    obtain hkept | ⟨hstatus, hv⟩ | ⟨hctrl, hv⟩ := writeTarget_keeps_haz (c := Config.ntps1)
      (v := v) (t := targetAt Config.ntps1 off.toNat) hhaz
    · exact .inl hkept
    · exact .inr (.inr ⟨off, v, rfl, eq_regOffset_of_targetAt hstatus, hv⟩)
    · exact .inr (.inl (.inr (.inr ⟨off, v, rfl, eq_regOffset_of_targetAt hctrl, hv⟩)))
  case inr.inr.inl => exact .inl (by rwa [waitInput_blk])
  case inr.inr.inr.inl => exact .inr (.inl (.inl hi))
  case inr.inr.inr.inr => exact .inr (.inl (.inr (.inl hi)))

/-- The writes of R241, by their offsets, are those of `Hazard`, and the block answers them. -/
theorem hazard_of_offset {off : Offset} {v : Word} {b : Block} (ha : off.toNat % 4 = 0)
    (h : (off.toNat = 0x010 ∧ b.phase = .busy) ∨ (off.toNat = 0x010 ∧ b.err = true) ∨
      (StoredOffset off.toNat ∧ b.phase = .busy) ∨ (DegreeOffset off.toNat ∧ 701 < v.toNat)) :
    Answered off ∧ Hazard Config.ntps1 v b (targetAt Config.ntps1 off.toNat) := by
  have cmd : off.toNat = 0x010 → targetAt Config.ntps1 off.toNat = .reg .cmd := fun hoff =>
    hoff ▸ targetAt_regOffset _ .cmd
  obtain ⟨hoff, hbusy⟩ | ⟨hoff, herr⟩ | ⟨hoff, hbusy⟩ | ⟨hoff, hv⟩ := h
  · exact ⟨⟨ha, by omega⟩, cmd hoff ▸ .cmdWhileBusy hbusy⟩
  · exact ⟨⟨ha, by omega⟩, cmd hoff ▸ .cmdInError herr⟩
  · exact ⟨⟨ha, by omega⟩, .operandWhileBusy (isOperand_of_storedOffset ha hoff) hbusy⟩
  · obtain ⟨r, hr, ho⟩ := exists_degreeRegs_iff.mpr hoff
    refine ⟨⟨ha, by omega⟩, ?_⟩
    rw [ho, targetAt_regOffset]
    exact .degreeAboveMax hr hv

/-- Settles O45: each hazard's write is dropped and sets HAZ; the engine keeps HAZ, and of the
inputs only a reset or the STATUS write clears it. -/
theorem hazardousWritesAreDroppedAndRecorded :
    Obligations.HazardousWritesAreDroppedAndRecorded := by
  refine ⟨fun s off v h ha hhazard => ?_, fun s t hhaz h => ?_⟩
  · obtain ⟨hanswered, hhazard⟩ := hazard_of_offset ha hhazard
    have hperf := performs_write h hanswered
    rwa [writeTarget_of_hazard hhazard] at hperf
  · obtain ⟨-, hstep⟩ | ⟨-, -, rfl⟩ | ⟨i, rest, -, hin, hperf⟩ := step_cases h
    · obtain ⟨-, hkept, -⟩ := engineStep_frame hstep
      exact .inl (hkept.trans hhaz)
    · exact .inl hhaz
    · exact (perform_keeps_haz hperf hhaz).imp_right fun hcleared => ⟨i, by simp [hin], hcleared⟩

end Sys2Proof.Proofs
end

section
/-! O51, O52: the reset values and the soft reset (70_reset_and_hazards.md R231, R232). -/

namespace Sys2Proof.Proofs

open Sys2Proof Sys2Proof.Machine Sys2Proof.Claims

/-- Every byte of an all-zero seed is 0, also one the configuration does not have. -/
theorem seedByte_replicate_zero (wr ns j : Nat) :
    seedByte (Vector.replicate ns (0 : BitVec wr)) j = 0 := by
  have hreg : ∀ k, seedReg (Vector.replicate ns (0 : BitVec wr)) k = 0 := fun k => by
    by_cases hk : k < ns <;> simp [seedReg, hk]
  rw [seedByte, hreg]
  exact BitVec.extractLsb'_zero

/-- Settles O51: every register of the reset state is the rule's by definition, an empty buffer
reads 0 at every cell, and the seed's bytes are those of eight zero registers. -/
theorem resetValuesAreThoseOfTheMap : Obligations.ResetValuesAreThoseOfTheMap :=
  ⟨rfl, rfl, rfl, rfl, read_nil, read_nil, rfl, fun j _ => seedByte_replicate_zero 32 8 j, rfl, rfl,
    rfl, rfl, rfl⟩

/-- Settles O52: the step is the write of CTRL, whose one test is bit 0. -/
theorem softResetRestoresTheResetState : Obligations.SoftResetRestoresTheResetState := by
  intro s off v h hoff
  have hperf : Performs s (writeReg Config.ntps1 v .ctrl s.blk) := performs_writeReg h hoff
  refine ⟨fun hv => ?_, fun hv => ?_⟩
  · rwa [writeReg_ctrl_of_set hv] at hperf
  · rwa [writeReg_ctrl_of_clear hv] at hperf

end Sys2Proof.Proofs
end

section
/-! O1, O4: the decoder answers exactly the encoded command, and the engine's step runs it
(30_encoding.md sections 1 to 3). -/

namespace Sys2Proof.Proofs

open Sys2Proof Sys2Proof.Machine Sys2Proof.Claims

/-- Settles O1: a word that decodes to a command has the fields of the row found, and every
command's own word decodes to it. -/
theorem decodeGivesExactlyTheEncodedCommand : Obligations.DecodeGivesExactlyTheEncodedCommand :=
  fun _ _ => decode_eq_ok_iff

theorem engineStep_of_decode_eq_ok {s : State} {i : Instr} (h : decode s.blk.lcmd = .ok i) :
    engineStep s = exec i s := by
  rw [engineStep, h]

/-- Settles O4: the step of `EngineNext` is the engine's, which is `exec` of the decoded command. -/
theorem stepRunsTheDecodedCommand : Obligations.StepRunsTheDecodedCommand :=
  fun _ _ hnext hdecode => (step_of_engineNext hnext).trans (engineStep_of_decode_eq_ok hdecode)

end Sys2Proof.Proofs
end

section
/-! What a command writes, said once, and O38: every command's frame (10_state.md section 6). -/

namespace Sys2Proof.Proofs

open Sys2Proof Sys2Proof.Machine Sys2Proof.Claims

/-! ## What a command writes -/

/-- Everything the effect of command `i` on `b` can be at NTPS-1: no write, a write of RESULT, a
polynomial written into S or into U by a command that may, or an error. A degree tag written is 0,
DEGREE or the other buffer's degree tag. -/
inductive CommandWrites (i : Instr) (b : Block) : Effect → Prop
  | nothing : CommandWrites i b (.ok b)
  | result {v : DWord} (hi : i ∈ resultWriters) : CommandWrites i b (.ok (setResult v b))
  | polyS {d q : Word} {ws : List Word} (hi : i ∈ sWriters) (hd : d ∈ [0, b.degree, b.uDeg]) :
      CommandWrites i b (.ok (setS Config.ntps1 d q ws b))
  | polyU {d q : Word} {ws : List Word} (hi : i ∈ uWriters) (hd : d ∈ [0, b.degree, b.sDeg]) :
      CommandWrites i b (.ok (setU Config.ntps1 d q ws b))
  | error {e : ErrCode} (he : e ≠ .noError) : CommandWrites i b (.error e)

section Commands

variable {i : Instr} {b : Block}

theorem gate_writes (cs : List Int) :
    CommandWrites i b (if isTrinary cs then .ok b else .error .trinaryViolation) := by
  split
  · exact .nothing
  · exact .error (by decide)

theorem sampleIntoS_writes (hi : i ∈ sWriters) (cs : Block → List Int) :
    CommandWrites i b (sampleIntoS Config.ntps1 cs b) := by
  rw [sampleIntoS_ntps1]
  split
  · exact .polyS hi (by simp)
  · exact .error (by decide)

theorem sampleIntoU_writes (hi : i ∈ uWriters) (cs : Block → List Int) :
    CommandWrites i b (sampleIntoU Config.ntps1 cs b) := by
  rw [sampleIntoU_ntps1]
  split
  · exact .polyU hi (by simp)
  · exact .error (by decide)

theorem uniform_writes : CommandWrites .uniform b (uniform Config.ntps1 b) := by
  rw [uniform_of_paramN_eq paramN_ntps1]
  exact .polyU (by decide) (by simp)

theorem effect_writes (i : Instr) (b : Block) : CommandWrites i b (effect Config.ntps1 i b) := by
  cases i with
  | zeroS | initS | lift => exact .polyS (by decide) (by simp)
  | zeroU | initU | down => exact .polyU (by decide) (by simp)
  | gateS | gateU => exact gate_writes _
  | sampleT | sampleTP => exact sampleIntoS_writes (by decide) _
  | sampleTU | sampleTPU => exact sampleIntoU_writes (by decide) _
  | uniform => exact uniform_writes
  | istriS | istriU | hammingS | hammingU | norm1S | norm1U | paramN | paramK | paramSeedbits
  | paramCoinbits | paramSkeybits | paramLogq | paramQ | paramTritbits | paramPkbits | paramSkbits
  | paramCtbits => exact .result (by decide)

end Commands

@[simp] theorem settle_phase (b : Block) (r : Effect) : (settle b r).phase = .idle := by
  cases r <;> rfl

/-! ## O38: the frame of every command -/

/-- An offset of the S window names an S cell or nothing (20_memory.md R60, R63). -/
theorem targetAt_of_sWindow {c : Config} {o : Nat} (hlo : 0x1000 ≤ o) (hhi : o < 0x2000) :
    (∃ i, targetAt c o = .sCell i) ∨ targetAt c o = .reserved := by
  rw [targetAt, if_neg (by omega), if_pos hhi]
  split
  · exact .inl ⟨_, rfl⟩
  · exact .inr rfl

/-- An offset of the U window names a U cell or nothing (20_memory.md R60, R63). -/
theorem targetAt_of_uWindow {c : Config} {o : Nat} (hlo : 0x2000 ≤ o) (hhi : o < 0x3000) :
    (∃ i, targetAt c o = .uCell i) ∨ targetAt c o = .reserved := by
  rw [targetAt, if_neg (by omega), if_neg (by omega), if_pos hhi]
  split
  · exact .inl ⟨_, rfl⟩
  · exact .inr rfl

/-- The bytes of the S window are those of the S cells. -/
theorem windowByte_congr_sCells {b b' : Block} (h : b'.sCells = b.sCells) {off : Nat}
    (hlo : 0x1000 ≤ off) (hhi : off < 0x2000) :
    windowByte Config.ntps1 b' off = windowByte Config.ntps1 b off := by
  rw [windowByte, windowByte, regBytes_ntps1]
  obtain ⟨i, ht⟩ | ht := targetAt_of_sWindow (c := Config.ntps1) (o := off - off % 4) (by omega)
    (by omega) <;> rw [ht]
  · rw [readTarget_sCell, readTarget_sCell, h]
  · rfl

/-- The bytes of the U window are those of the U cells. -/
theorem windowByte_congr_uCells {b b' : Block} (h : b'.uCells = b.uCells) {off : Nat}
    (hlo : 0x2000 ≤ off) (hhi : off < 0x3000) :
    windowByte Config.ntps1 b' off = windowByte Config.ntps1 b off := by
  rw [windowByte, windowByte, regBytes_ntps1]
  obtain ⟨i, ht⟩ | ht := targetAt_of_uWindow (c := Config.ntps1) (o := off - off % 4) (by omega)
    (by omega) <;> rw [ht]
  · rw [readTarget_uCell, readTarget_uCell, h]
  · rfl

/-- The fields of the block that command `i` owns are all that differ from `b` to `b'`, but for ERR,
ERRCODE and PHASE (10_state.md R44). -/
structure CommandFrame (i : Instr) (b b' : Block) : Prop where
  lcmd : b'.lcmd = b.lcmd
  haz : b'.haz = b.haz
  degree : b'.degree = b.degree
  dlabel : b'.dlabel = b.dlabel
  seed : b'.seed = b.seed
  result : i ∉ resultWriters → b'.resultLo = b.resultLo ∧ b'.resultHi = b.resultHi
  polyS : i ∉ sWriters → b'.sDeg = b.sDeg ∧ b'.sMod = b.sMod ∧ b'.sCells = b.sCells
  polyU : i ∉ uWriters → b'.uDeg = b.uDeg ∧ b'.uMod = b.uMod ∧ b'.uCells = b.uCells

theorem CommandFrame.refl (i : Instr) (b : Block) : CommandFrame i b b :=
  ⟨rfl, rfl, rfl, rfl, rfl, fun _ => ⟨rfl, rfl⟩, fun _ => ⟨rfl, rfl, rfl⟩, fun _ => ⟨rfl, rfl, rfl⟩⟩

theorem commandFrame_settle {i : Instr} {b : Block} {r : Effect} (h : CommandWrites i b r) :
    CommandFrame i b (settle b r) := by
  have hrefl := CommandFrame.refl i b
  cases h with
  | nothing | error => exact { hrefl with }
  | result hi => exact { hrefl with result := fun hni => absurd hi hni }
  | polyS hi => exact { hrefl with polyS := fun hni => absurd hi hni }
  | polyU hi => exact { hrefl with polyU := fun hni => absurd hi hni }

/-- Settles O38: the frame of what the command writes; the bytes of a window are a view of its
buffer's cells. -/
theorem commandsWriteOnlyTheirOwnState : Obligations.CommandsWriteOnlyTheirOwnState := by
  intro i s t h
  rw [exec_eq_retire, retire] at h
  cases h
  have hframe := commandFrame_settle (effect_writes i s.blk)
  refine ⟨rfl, settle_phase _ _, hframe.lcmd, hframe.haz, hframe.degree, hframe.dlabel, hframe.seed,
    hframe.result, fun hi => ?polyS, fun hi => ?polyU⟩
  case polyS =>
    obtain ⟨hdeg, hmod, hcells⟩ := hframe.polyS hi
    exact ⟨hdeg, hmod, fun off => windowByte_congr_sCells hcells⟩
  case polyU =>
    obtain ⟨hdeg, hmod, hcells⟩ := hframe.polyU hi
    exact ⟨hdeg, hmod, fun off => windowByte_congr_uCells hcells⟩

end Sys2Proof.Proofs
end

section
/-! O54, O55: the machine's invariant holds at reset, and every step keeps it (10_state.md sections 2
to 5, 60_exceptions.md section 3). -/

namespace Sys2Proof.Proofs

open Sys2Proof Sys2Proof.Machine Sys2Proof.Claims Sys2Proof.Safety

/-! ## O54: the invariant at reset -/

/-- The reset block of NTPS-1 has DEGREE = N_MAX, empty buffers and no error. -/
theorem blockInv_reset : BlockInv Config.ntps1 (Block.reset Config.ntps1) where
  degree_le := by decide
  sDeg_le := by decide
  uDeg_le := by decide
  sCells_wf := rfl
  uCells_wf := rfl
  code_iff := by decide
  busy_ok := by decide

/-- Settles O54: the reset block meets the block's invariant, and no command is BUSY in it. -/
theorem resetMeetsTheInvariant : Obligations.ResetMeetsTheInvariant :=
  ⟨blockInv_reset, fun _ => rfl⟩

/-! ## O55: the updates of a command keep the block's invariant -/

section Updates

variable {c : Config} {b : Block} (h : BlockInv c b)

include h

theorem blockInv_setResult (v : DWord) : BlockInv c (setResult v b) := { h with }

theorem blockInv_setS {d : Word} (hd : d.toNat ≤ c.nMax) (q : Word) (ws : List Word) :
    BlockInv c (setS c d q ws b) := { h with sDeg_le := hd, sCells_wf := ofList_wf c ws }

theorem blockInv_setU {d : Word} (hd : d.toNat ≤ c.nMax) (q : Word) (ws : List Word) :
    BlockInv c (setU c d q ws b) := { h with uDeg_le := hd, uCells_wf := ofList_wf c ws }

theorem blockInv_setHazard : BlockInv c (setHazard b) := { h with }

theorem blockInv_finish : BlockInv c (finish b) := { h with busy_ok := nofun }

theorem blockInv_raiseError {e : ErrCode} (he : e ≠ .noError) : BlockInv c (raiseError e b) :=
  { h with code_iff := by simp [he], busy_ok := nofun }

end Updates

/-- A command ends in a block that meets the invariant: the degree tags it writes are 0 or a degree
register's value, and the buffers it fills are canonical. -/
theorem blockInv_settle {i : Instr} {b : Block} {r : Effect} (h : BlockInv Config.ntps1 b)
    (hr : CommandWrites i b r) : BlockInv Config.ntps1 (settle b r) := by
  cases hr with
  | nothing => exact blockInv_finish h
  | result => exact blockInv_finish (blockInv_setResult h _)
  | polyS _ hd =>
    have hle : ∀ d ∈ [0, b.degree, b.uDeg], d.toNat ≤ Config.ntps1.nMax := by
      simp [h.degree_le, h.uDeg_le]
    exact blockInv_finish (blockInv_setS h (hle _ hd) _ _)
  | polyU _ hd =>
    have hle : ∀ d ∈ [0, b.degree, b.sDeg], d.toNat ≤ Config.ntps1.nMax := by
      simp [h.degree_le, h.sDeg_le]
    exact blockInv_finish (blockInv_setU h (hle _ hd) _ _)
  | error he => exact blockInv_raiseError h he

/-! ## O55: the engine's step, as a function of the block -/

/-- The block after the engine's step of LCMD (30_encoding.md R84, R85). -/
def engineBlock (b : Block) : Block :=
  match decode b.lcmd with
  | .ok i => settle b (effect Config.ntps1 i b)
  | .error _ => raiseError .illegalCommand b

/-- The engine's step always answers a next state and leaves the environment alone. -/
theorem engineStep_eq (s : State) : engineStep s = .next { s with blk := engineBlock s.blk } := by
  rw [engineStep, engineBlock]
  cases decode s.blk.lcmd with
  | ok i => exact exec_eq_retire i s
  | error => rfl

theorem engineBlock_of_decode_eq_ok {b : Block} {i : Instr} (h : decode b.lcmd = .ok i) :
    engineBlock b = settle b (effect Config.ntps1 i b) := by
  rw [engineBlock, h]

@[simp] theorem engineBlock_phase (b : Block) : (engineBlock b).phase = .idle := by
  rw [engineBlock]
  split
  · exact settle_phase _ _
  · rfl

theorem blockInv_engineBlock {b : Block} (h : BlockInv Config.ntps1 b) :
    BlockInv Config.ntps1 (engineBlock b) := by
  rw [engineBlock]
  split
  · exact blockInv_settle h (effect_writes _ b)
  · exact blockInv_raiseError h (by decide)

/-! ## O55: the host's writes keep the block's invariant -/

section Writes

variable {c : Config} {b : Block} {v : Word} {f : Block → Block} (h : BlockInv c b)

include h

theorem blockInv_writeIdle (hf : BlockInv c (f b)) : BlockInv c (writeIdle f b) := by
  rw [writeIdle]
  split
  · exact blockInv_setHazard h
  · exact hf

/-- A degree register takes no value above N_MAX (10_state.md R27, R31, R33). -/
theorem blockInv_writeDegree (hf : v.toNat ≤ c.nMax → BlockInv c (f b)) :
    BlockInv c (writeDegree c v f b) := by
  refine blockInv_writeIdle h ?_
  split
  case isTrue => exact blockInv_setHazard h
  case isFalse hv => exact hf (not_lt.mp hv)

/-- A command becomes BUSY only while ERR = 0 (10_state.md R26). -/
theorem blockInv_writeCmd : BlockInv c (writeCmd v b) := by
  by_cases hfree : b.phase = .idle ∧ b.err = false
  · rw [writeCmd_of_accepted hfree]
    exact { h with busy_ok := fun _ => hfree.2 }
  · rw [writeCmd_of_not_accepted hfree]
    exact blockInv_setHazard h

theorem blockInv_writeStatus : BlockInv c (writeStatus v b) := by
  rw [writeStatus]
  split
  · exact { h with }
  · exact h

end Writes

/-- A write to a target that exists keeps the invariant. -/
theorem blockInv_writeTarget {b : Block} {v : Word} {t : Target} (h : BlockInv Config.ntps1 b)
    (hcell : ∀ i, t = .sCell i ∨ t = .uCell i → i < Config.ntps1.nMax) :
    BlockInv Config.ntps1 (writeTarget Config.ntps1 v t b) := by
  cases t with
  | reg r =>
    rw [writeTarget]
    cases r with
    | ctrl =>
      rw [writeReg]
      split
      · exact blockInv_reset
      · exact h
    | status => exact blockInv_writeStatus h
    | cmd => exact blockInv_writeCmd h
    | degree =>
      rw [writeReg]
      refine blockInv_writeDegree h fun hv => ?_
      exact { h with degree_le := hv }
    | sDeg =>
      rw [writeReg]
      refine blockInv_writeDegree h fun hv => ?_
      exact { h with sDeg_le := hv }
    | uDeg =>
      rw [writeReg]
      refine blockInv_writeDegree h fun hv => ?_
      exact { h with uDeg_le := hv }
    | dlabel | seed | sMod | uMod =>
      rw [writeReg]
      refine blockInv_writeIdle h ?_
      exact { h with }
    | id | hwcfg | resultLo | resultHi => exact h
  | sCell i =>
    rw [writeTarget]
    refine blockInv_writeIdle h ?_
    exact { h with sCells_wf := write_wf h.sCells_wf (hcell i (.inl rfl)) }
  | uCell i =>
    rw [writeTarget]
    refine blockInv_writeIdle h ?_
    exact { h with uCells_wf := write_wf h.uCells_wf (hcell i (.inr rfl)) }
  | reserved => exact h

/-! ## O55: the step -/

/-- A performed input keeps the invariant: an access is answered only while the reset input is
released, and a reset leaves the reset block. -/
theorem perform_inv {i : Input} {s t : State} (h : perform i s = .next t)
    (hinv : BlockInv Config.ntps1 s.blk) : Inv t := by
  obtain ⟨off, -, hreset, -, rfl⟩ | ⟨off, v, -, hreset, -, rfl⟩ | ⟨-, hreset, rfl⟩ | ⟨-, rfl⟩ |
    ⟨-, rfl⟩ := perform_cases h
  case inl => exact ⟨hinv, by simp [hreset]⟩
  case inr.inl => exact ⟨blockInv_writeTarget hinv fun i => targetAt_cell_lt, by simp [hreset]⟩
  case inr.inr.inl => exact ⟨by rwa [waitInput_blk], by simp [hreset]⟩
  case inr.inr.inr.inl => exact ⟨blockInv_reset, fun _ => rfl⟩
  case inr.inr.inr.inr => exact ⟨blockInv_reset, fun _ => rfl⟩

/-- Settles O55: a step is the engine's, which keeps the block's invariant and ends IDLE, or nothing,
or one input. -/
theorem everyStepKeepsTheInvariant : Obligations.EveryStepKeepsTheInvariant := by
  intro s t hinv h
  obtain ⟨-, hstep⟩ | ⟨-, -, rfl⟩ | ⟨i, rest, -, -, hperf⟩ := step_cases h
  · rw [engineStep_eq] at hstep
    cases hstep
    exact ⟨blockInv_engineBlock hinv.blk, fun _ => engineBlock_phase s.blk⟩
  · exact hinv
  · exact perform_inv hperf hinv.blk

end Sys2Proof.Proofs
end

section
/-! O41, O42, O46 to O49: the register map, STATUS, and the host's accesses by offset (10_state.md
R21 to R39, 20_memory.md). -/

namespace Sys2Proof.Proofs

open Sys2Proof Sys2Proof.Machine Sys2Proof.Claims

/-! ## O41: what each offset holds -/

theorem held_regOffset (b : Block) (r : Reg) :
    held b (regOffset r) = readReg Config.ntps1 b r := by
  rw [held, targetAt_regOffset, readTarget]

theorem held_sOffset (b : Block) {i : Nat} (hi : i < 701) :
    held b (0x1000 + 4 * i) = Memory.read b.sCells i := by
  rw [held, targetAt_sOffset hi, readTarget_sCell]

theorem held_uOffset (b : Block) {i : Nat} (hi : i < 701) :
    held b (0x2000 + 4 * i) = Memory.read b.uCells i := by
  rw [held, targetAt_uOffset hi, readTarget_uCell]

/-- A reserved offset names no register and no cell (10_state.md R37). -/
theorem targetAt_of_reservedOffset {o : Nat} (ha : o % 4 = 0) (h : ReservedOffset o) :
    targetAt Config.ntps1 o = .reserved := by
  cases ht : targetAt Config.ntps1 o with
  | reg r =>
    have ho := eq_regOffset_of_targetAt ht
    cases r <;> simp only [regOffset] at ho <;> omega
  | sCell i =>
    have hi : i < 701 := targetAt_cell_lt (.inl ht)
    have ho := eq_sOffset_of_targetAt ha ht
    rw [sOffset] at ho
    omega
  | uCell i =>
    have hi : i < 701 := targetAt_cell_lt (.inr ht)
    have ho := eq_uOffset_of_targetAt ha ht
    rw [uOffset] at ho
    omega
  | reserved => rfl

theorem held_of_reservedOffset (b : Block) {o : Nat} (ha : o % 4 = 0) (h : ReservedOffset o) :
    held b o = 0 := by
  rw [held, targetAt_of_reservedOffset ha h, readTarget]

/-- Settles O41: the offset of a register or cell names it, and a reserved one names nothing. -/
theorem eachRegisterIsHeldAtItsOffset : Obligations.EachRegisterIsHeldAtItsOffset := by
  intro b
  have register := held_regOffset b
  exact ⟨register .id, register .hwcfg, register .ctrl,
    (register .status).trans (readReg_status _ b), register .cmd, register .degree, register .dlabel,
    fun k => (register (.seed k)).trans (readReg_seed _ b k),
    register .resultLo, register .resultHi, register .sDeg, register .sMod, register .uDeg,
    register .uMod, fun _ => held_sOffset b, fun _ => held_uOffset b,
    fun _ => held_of_reservedOffset b⟩

/-! ## O42: STATUS -/

/-- The fields of the STATUS word (10_state.md R25). -/
theorem statusWord_fields (b : Block) :
    (statusWord b).getLsbD 0 = busyBit b ∧ (statusWord b).getLsbD 1 = b.err ∧
    (statusWord b).getLsbD 2 = b.haz ∧ (statusWord b).getLsbD 3 = false ∧
    (statusWord b).extractLsb' 4 4 = errCodeBits b.errCode ∧
    ∀ k, 8 ≤ k → (statusWord b).getLsbD k = false := by
  refine ⟨?busy, ?err, ?haz, ?zero, ?code, fun k hk => ?high⟩
  case busy | err | haz | zero =>
    rw [statusWord]
    simp only [BitVec.getLsbD_append]
    simp
  case code =>
    rw [statusWord]
    iterate 4 rw [BitVec.extractLsb'_append_eq_of_le (by decide)]
    rw [BitVec.extractLsb'_append_eq_of_add_le (by decide)]
    simp
  case high =>
    rw [statusWord]
    iterate 5 rw [BitVec.getLsbD_append, if_neg (by omega)]
    exact BitVec.getLsbD_zero

theorem writeStatus_of_set {b : Block} {v : Word} (hv : v.getLsbD 2 = true) :
    writeStatus v b = { b with haz := false } := if_pos hv

theorem writeStatus_of_clear {b : Block} {v : Word} (hv : v.getLsbD 2 = false) :
    writeStatus v b = b := if_neg (Bool.eq_false_iff.mp hv)

/-- Settles O42: the fields are the parts STATUS is put together from, and the step is the write of
STATUS, whose one test is bit 2. -/
theorem statusFieldsAndWrites : Obligations.StatusFieldsAndWrites := by
  refine ⟨statusWord_fields, fun s off v h hoff => ?_⟩
  have hperf : Performs s (writeStatus v s.blk) := performs_writeReg (r := .status) h hoff
  refine ⟨fun hv => ?_, fun hv => ?_⟩
  · rwa [writeStatus_of_set hv] at hperf
  · rwa [writeStatus_of_clear hv] at hperf

/-! ## O47: writes without effect -/

/-- Settles O47: the target is a read-only register or none, and its write is the identity. -/
theorem readOnlyAndReservedOffsetsIgnoreWrites :
    Obligations.ReadOnlyAndReservedOffsetsIgnoreWrites := by
  intro s off v h ha hoff
  obtain hid | hcfg | hlo | hhi | hres := hoff
  · exact performs_writeReg (r := .id) h hid
  · exact performs_writeReg (r := .hwcfg) h hcfg
  · exact performs_writeReg (r := .resultLo) h hlo
  · exact performs_writeReg (r := .resultHi) h hhi
  · have hperf := performs_write h ⟨ha, by omega⟩
    rwa [targetAt_of_reservedOffset ha hres] at hperf

/-! ## O48: refused accesses -/

theorem refusalOf_of_outside {w : Width} {off : Offset} (h : 0x3000 ≤ off.toNat) :
    refusalOf Config.ntps1 w off = some .outsideWindow := by
  simp [refusalOf, Offset.inWindow, not_lt.mpr h]

theorem refusalOf_of_inside {w : Width} {off : Offset} (hwin : off.toNat < 0x3000)
    (h : w ≠ .w32 ∨ off.toNat % 4 ≠ 0) :
    refusalOf Config.ntps1 w off = some .busErrorWidthOrAlignment := by
  have hsome : refusalOf Config.ntps1 w off ≠ none := by
    rw [Ne, refusalOf_eq_none]
    tauto
  simpa [refusalOf, Offset.inWindow, hwin] using hsome

/-- An access that is refused stops the machine under the refusal's name. -/
theorem hostAccess_of_refusal {s : State} {w : Width} {off : Offset} {act : Target → State → State}
    {r : Refusal} (hreset : s.env.inReset = false) (h : refusalOf Config.ntps1 w off = some r) :
    hostAccess w off act s = .refused r := by
  simp [hostAccess, hreset, h]

/-- Settles O48: a read and a write are the same access, refused by its offset and width alone. -/
theorem otherAccessesAreRefused : Obligations.OtherAccessesAreRefused := by
  intro s w off v h
  have refused : ∀ r, refusalOf Config.ntps1 w off = some r → step s = .refused r := by
    intro r hr
    obtain hread | hwrite := h
    · exact (step_of_hostNext hread).trans (hostAccess_of_refusal hread.1 hr)
    · exact (step_of_hostNext hwrite).trans
        (hostAccess_of_refusal (act := fun t => writeInput Config.ntps1 t v) hwrite.1 hr)
  exact ⟨fun hwin hbad => refused _ (refusalOf_of_inside hwin hbad),
    fun hout => refused _ (refusalOf_of_outside hout)⟩

/-! ## O49: the bytes of the window and the bus address -/

theorem windowByte_eq_lane (b : Block) {o k : Nat} (ho : o % 4 = 0) (hk : k < 4) :
    windowByte Config.ntps1 b (o + k) = (held b o).extractLsb' (8 * k) 8 := by
  have hlane : (o + k) % 4 = k := by omega
  rw [windowByte, regBytes_ntps1, hlane, Nat.add_sub_cancel, held]

theorem offsetOfAddress_base_add {o : Nat} (ho : o < 0x4000) :
    (offsetOfAddress (Config.base + o)).toNat = o := by
  rw [offsetOfAddress, Config.base, BitVec.toNat_ofNat]
  omega

/-- Settles O49: an aligned offset is where its lanes' word stands, and BASE is 0 in the 14 offset
bits. -/
theorem windowBytesAreLittleEndianLanes : Obligations.WindowBytesAreLittleEndianLanes :=
  ⟨fun b _ _ => windowByte_eq_lane b, fun _ => offsetOfAddress_base_add⟩

end Sys2Proof.Proofs
end

section
/-! O53: the hard reset input (70_reset_and_hazards.md R230). -/

namespace Sys2Proof.Proofs

open Sys2Proof Sys2Proof.Machine Sys2Proof.Claims

/-- While the reset input is asserted the engine does not step: the next input is performed. -/
theorem step_of_inReset {s : State} {i : Input} {rest : List Input} (hreset : s.env.inReset = true)
    (hin : s.env.inputs = i :: rest) : step s = perform i (inputTaken s) := by
  simp [step, engineTurn, hreset, hin, inputTaken]

theorem perform_of_inReset {s : State} {i : Input} (hreset : s.env.inReset = true)
    (hi : (∃ w off, i = .read w off) ∨ (∃ w off v, i = .write w off v) ∨ i = .wait) :
    perform i s = .fault .accessWhileInReset := by
  obtain ⟨w, off, rfl⟩ | ⟨w, off, v, rfl⟩ | rfl := hi <;> simp [perform, hostAccess, hreset]

/-- Settles O53: the input next is performed, a fault for an access and a reset for an edge. -/
theorem hardResetAnswersNothingAndEndsInTheResetState :
    Obligations.HardResetAnswersNothingAndEndsInTheResetState := by
  refine ⟨fun s i rest hreset hin => ?_, fun s h => ?_⟩
  · have hstep := step_of_inReset hreset hin
    refine ⟨fun hi => hstep.trans (perform_of_inReset hreset hi), ?_⟩
    rintro rfl
    exact ⟨_, hstep, rfl, rfl, by simp [inputTaken, releaseReset, hin]⟩
  · exact ⟨_, step_of_hostNext h, rfl, rfl⟩

end Sys2Proof.Proofs
end

section
/-! O46: an accepted write stores its value (10_state.md sections 3 to 5). -/

namespace Sys2Proof.Proofs

open Sys2Proof Sys2Proof.Machine Sys2Proof.Claims

/-! ## What a store does to the targets -/

/-- From `b` to `b'` the target `t` has come to hold `v`; every other target holds what it held, and
PHASE and LCMD are kept. -/
structure Stores (v : Word) (t : Target) (b b' : Block) : Prop where
  same : readTarget Config.ntps1 b' t = v
  other : ∀ t', t' ≠ t → readTarget Config.ntps1 b' t' = readTarget Config.ntps1 b t'
  phase : b'.phase = b.phase
  lcmd : b'.lcmd = b.lcmd

section Writes

variable {v : Word} {b b' : Block}

/-- A store into a register leaves the buffers alone, so only the registers are to be compared. -/
theorem stores_reg {r : Reg} (hS : b'.sCells = b.sCells) (hU : b'.uCells = b.uCells)
    (hphase : b'.phase = b.phase) (hlcmd : b'.lcmd = b.lcmd)
    (hsame : readReg Config.ntps1 b' r = v)
    (hother : ∀ r', r' ≠ r → readReg Config.ntps1 b' r' = readReg Config.ntps1 b r') :
    Stores v (.reg r) b b' where
  same := hsame
  other t' hne := by
    cases t' with
    | reg r' => exact hother r' fun h => hne (congrArg Target.reg h)
    | sCell i => rw [readTarget_sCell, readTarget_sCell, hS]
    | uCell i => rw [readTarget_uCell, readTarget_uCell, hU]
    | reserved => rfl
  phase := hphase
  lcmd := hlcmd

theorem stores_seed (k : Fin 8) :
    Stores v (.reg (.seed k)) b { b with seed := setSeedReg b.seed k v } := by
  refine stores_reg rfl rfl rfl rfl (by simp) fun r' hne => ?_
  cases r' with
  | seed k' =>
    have hk : k.val ≠ k'.val := fun h => hne (by rw [Fin.ext h])
    simp [hk]
  | _ => rfl

theorem stores_sCell {i : Nat} (hwf : Memory.wf Config.ntps1 b.sCells = true) :
    Stores v (.sCell i) b { b with sCells := Memory.write b.sCells i v } where
  same := by rw [readTarget_sCell, read_write hwf, if_pos rfl]
  other t' hne := by
    cases t' with
    | sCell j =>
      have hj : j ≠ i := fun h => hne (congrArg Target.sCell h)
      rw [readTarget_sCell, readTarget_sCell, read_write hwf, if_neg hj]
    | reg r => cases r <;> rfl
    | uCell | reserved => rfl
  phase := rfl
  lcmd := rfl

theorem stores_uCell {i : Nat} (hwf : Memory.wf Config.ntps1 b.uCells = true) :
    Stores v (.uCell i) b { b with uCells := Memory.write b.uCells i v } where
  same := by rw [readTarget_uCell, read_write hwf, if_pos rfl]
  other t' hne := by
    cases t' with
    | uCell j =>
      have hj : j ≠ i := fun h => hne (congrArg Target.uCell h)
      rw [readTarget_uCell, readTarget_uCell, read_write hwf, if_neg hj]
    | reg r => cases r <;> rfl
    | sCell | reserved => rfl
  phase := rfl
  lcmd := rfl

/-! ## The accepted writes -/

theorem writeIdle_of_idle {f : Block → Block} (hidle : b.phase = .idle) : writeIdle f b = f b := by
  simp [writeIdle, busyBit, hidle]

theorem writeDegree_of_accepted {c : Config} {f : Block → Block} (hidle : b.phase = .idle)
    (hv : v.toNat ≤ c.nMax) : writeDegree c v f b = f b := by
  rw [writeDegree, writeIdle_of_idle hidle, if_neg (not_lt.mpr hv)]

/-- An accepted write to an operand is a store. -/
theorem writeTarget_stores {t : Target} (ht : isOperand t = true) (hidle : b.phase = .idle)
    (hv : ∀ r ∈ degreeRegs, t = .reg r → v.toNat ≤ Config.ntps1.nMax)
    (hS : Memory.wf Config.ntps1 b.sCells = true) (hU : Memory.wf Config.ntps1 b.uCells = true) :
    Stores v t b (writeTarget Config.ntps1 v t b) := by
  cases t with
  | reg r =>
    rw [writeTarget]
    cases r with
    | degree | sDeg | uDeg =>
      rw [writeReg, writeDegree_of_accepted hidle (hv _ (by decide) rfl)]
      refine stores_reg rfl rfl rfl rfl rfl fun r' hne => ?_
      revert hne
      cases r' <;> simp [readReg, statusWord, busyBit]
    | dlabel | sMod | uMod =>
      rw [writeReg, writeIdle_of_idle hidle]
      refine stores_reg rfl rfl rfl rfl rfl fun r' hne => ?_
      revert hne
      cases r' <;> simp [readReg, statusWord, busyBit]
    | seed k =>
      rw [writeReg, writeIdle_of_idle hidle]
      exact stores_seed k
    | id | hwcfg | ctrl | status | cmd | resultLo | resultHi => cases ht
  | sCell i =>
    rw [writeTarget, writeIdle_of_idle hidle, BitVec.setWidth_eq]
    exact stores_sCell hS
  | uCell i =>
    rw [writeTarget, writeIdle_of_idle hidle, BitVec.setWidth_eq]
    exact stores_uCell hU
  | reserved => cases ht

end Writes

/-! ## From targets to offsets -/

/-- Two aligned offsets of one register or cell are the same. -/
theorem offset_eq_of_targetAt_eq {o o' : Nat} (ha : o % 4 = 0) (ha' : o' % 4 = 0)
    (h : targetAt Config.ntps1 o = targetAt Config.ntps1 o')
    (hop : isOperand (targetAt Config.ntps1 o') = true) : o = o' := by
  cases ht : targetAt Config.ntps1 o' with
  | reg r => rw [eq_regOffset_of_targetAt ht, eq_regOffset_of_targetAt (h.trans ht)]
  | sCell i => rw [eq_sOffset_of_targetAt ha' ht, eq_sOffset_of_targetAt ha (h.trans ht)]
  | uCell i => rw [eq_uOffset_of_targetAt ha' ht, eq_uOffset_of_targetAt ha (h.trans ht)]
  | reserved =>
    rw [ht] at hop
    cases hop

/-- Settles O46: the write stores into the offset's target, and no other aligned offset names that
target. -/
theorem acceptedWritesStoreTheirValueAndNothingElse :
    Obligations.AcceptedWritesStoreTheirValueAndNothingElse := by
  intro s off v h ha hoff hidle hv hS hU
  have hop := isOperand_of_storedOffset ha hoff
  have hlegal : ∀ r ∈ degreeRegs, targetAt Config.ntps1 off.toNat = .reg r → v.toNat ≤ 701 :=
    fun r hr ht => hv (exists_degreeRegs_iff.mp ⟨r, hr, eq_regOffset_of_targetAt ht⟩)
  have hstores := writeTarget_stores hop hidle hlegal hS hU
  exact ⟨_, performs_write h ⟨ha, by omega⟩, hstores.same,
    fun o ho hne => hstores.other _ fun ht => hne (offset_eq_of_targetAt_eq ho ha ht hop),
    hstores.phase.trans hidle, hstores.lcmd⟩

end Sys2Proof.Proofs
end

section
/-! O15, O17: NORM1, and the statistics of U as those of S after LIFT (42_core.md R134, R139,
R140). -/

namespace Sys2Proof.Proofs

open Sys2Proof Sys2Proof.Machine Sys2Proof.Claims

/-! ## O15: NORM1 -/

/-- A sum of at most 2^32 - 1 words of 32 bits fits the 64 bits of RESULT. -/
theorem toInt_wrap64_sum (d : Word) {f : Nat → Int} (hf : ∀ i, |f i| ≤ 2147483648) :
    (wrap64 (∑ i ∈ Finset.range d.toNat, f i)).toInt = ∑ i ∈ Finset.range d.toNat, f i := by
  have hbound : |∑ i ∈ Finset.range d.toNat, f i| ≤ d.toNat * 2147483648 := by
    calc |∑ i ∈ Finset.range d.toNat, f i|
        ≤ ∑ i ∈ Finset.range d.toNat, |f i| := Finset.abs_sum_le_sum_abs _ _
      _ ≤ ∑ _i ∈ Finset.range d.toNat, 2147483648 := Finset.sum_le_sum fun i _ => hf i
      _ = d.toNat * 2147483648 := by simp
  have hd := d.isLt
  obtain ⟨hlo, hhi⟩ := abs_le.mp hbound
  exact BitVec.toInt_ofInt_eq_self (by decide) (by omega) (by omega)

theorem abs_toInt_le (v : Word) : |v.toInt| ≤ 2147483648 := by
  have hlo := v.le_toInt
  have hhi := v.toInt_lt
  rw [abs_le]
  omega

theorem resultHi_eq_extractLsb' (b : Block) : b.resultHi = (result b).extractLsb' 32 32 := by
  rw [result, BitVec.extractLsb'_append_eq_of_le le_rfl]
  exact BitVec.extractLsb'_eq_self.symm

/-- The upper half of a negative 64-bit value from -2^32 on is all ones. -/
theorem extractLsb'_high_of_neg {v : DWord} (hlo : -4294967296 ≤ v.toInt) (hneg : v.toInt < 0) :
    v.extractLsb' 32 32 = 0xFFFFFFFF := by
  have hv := v.isLt
  apply BitVec.eq_of_toNat_eq
  rw [BitVec.toInt_eq_toNat_cond] at hlo hneg
  simp [Nat.shiftRight_eq_div_pow]
  omega

/-- A command that answers the sum of the coefficients `f 0 .. f (d-1)`, each a word's signed
value. -/
theorem completes_of_norm1 {i : Instr} {s : State} {d : Word} {f : Nat → Int}
    (h : effect Config.ntps1 i s.blk
      = .ok (setResult (wrap64 (normOne ((List.range d.toNat).map f))) s.blk))
    (hf : ∀ k, |f k| ≤ 2147483648) :
    Completes i s (fun b => OnlyResultChanged s.blk b ∧
      (result b).toInt = ∑ k ∈ Finset.range d.toNat, f k) := by
  obtain ⟨b, hexec, hframe, hresult⟩ := completes_of_setResult h
  refine ⟨b, hexec, hframe, ?_⟩
  rw [hresult]
  exact toInt_wrap64_sum d hf

/-- Settles O15: the sum over the buffer's coefficients, read by index, fits RESULT, and a sum from
-2^32 to -1 has the upper half of -1. -/
theorem normOneIsTheExactSignedSum : Obligations.NormOneIsTheExactSignedSum := by
  refine ⟨rfl, rfl, fun s => ⟨?S, ?U⟩⟩
  case S =>
    obtain ⟨b, hexec, hframe, hsum⟩ := completes_of_norm1 (i := .norm1S) (s := s) (d := s.blk.sDeg)
      (f := sInt s.blk) (by rw [← sCoeffs_eq_map_sInt]; rfl) fun _ => abs_toInt_le _
    refine ⟨b, hexec, hframe, hsum, fun hlo hneg => ?_⟩
    rw [resultHi_eq_extractLsb', extractLsb'_high_of_neg hlo hneg]
  case U =>
    exact completes_of_norm1 (by rw [← uCoeffs_eq_map_sv]; rfl) fun _ => abs_toInt_le _

/-! ## O17: the statistics after LIFT -/

/-- The block after LIFT (41_conversion.md R123). -/
def liftedBlock (b : Block) : Block :=
  finish (setS Config.ntps1 b.uDeg b.uMod ((uWords b).map (liftWord b.uMod)) b)

theorem exec_lift_eq (s : State) : exec .lift s = .next { s with blk := liftedBlock s.blk } :=
  exec_lift s

/-- LIFT writes the signed view of each U cell into the S cell of its index. -/
theorem sInt_liftedBlock {b : Block} {i : Nat} (hi : i < 701) (hdeg : i < b.uDeg.toNat) :
    sInt (liftedBlock b) i = sv b i := by
  have hcell : Memory.read (liftedBlock b).sCells i
      = if i < b.uDeg.toNat then liftWord b.uMod (Memory.read b.uCells i) else 0 :=
    read_ofList_map_words (c := Config.ntps1) hi _ _ _
  rw [sInt, hcell, if_pos hdeg, liftWord_uCell, sv]

/-- So the S coefficients after LIFT are the U coefficients before it. -/
theorem sCoeffs_liftedBlock {b : Block} (hmax : b.uDeg.toNat ≤ 701) :
    sCoeffs (liftedBlock b) = uCoeffs b := by
  rw [sCoeffs_eq_map_sInt, uCoeffs_eq_map_sv]
  refine List.map_congr_left fun i hi => ?_
  have hdeg : i < b.uDeg.toNat := List.mem_range.mp hi
  exact sInt_liftedBlock (by omega) hdeg

/-- Two commands that write the same value to RESULT leave the same RESULT. -/
theorem same_result_of_setResult {i j : Instr} {s a : State} {v w : DWord}
    (hi : effect Config.ntps1 i s.blk = .ok (setResult v s.blk))
    (hj : effect Config.ntps1 j a.blk = .ok (setResult w a.blk)) (hvw : v = w) :
    ∃ t u, exec i s = .next t ∧ exec j a = .next u ∧ result t.blk = result u.blk := by
  obtain ⟨b, hb, -, hv⟩ := completes_of_setResult hi
  obtain ⟨b', hb', -, hw⟩ := completes_of_setResult hj
  exact ⟨_, _, hb, hb', hv.trans (hvw.trans hw.symm)⟩

/-- Settles O17: each statistic of S is the same function of the same coefficients. -/
theorem unsignedStatisticsAreThoseOfTheLiftedPolynomial :
    Obligations.UnsignedStatisticsAreThoseOfTheLiftedPolynomial := by
  intro s a hmax h
  cases (exec_lift_eq s).symm.trans h
  have hcs := sCoeffs_liftedBlock hmax
  refine ⟨fun i hi => sInt_liftedBlock (by omega) hi, ?_⟩
  simp only [List.forall_mem_cons]
  refine ⟨?_, ?_, ?_, List.forall_mem_nil _⟩
  all_goals exact same_result_of_setResult rfl rfl (by rw [← hcs])

end Sys2Proof.Proofs
end

section
/-! O21, O22: LIFT and DOWN undo each other on in-domain polynomials (41_conversion.md R122). -/

namespace Sys2Proof.Proofs

open Sys2Proof Sys2Proof.Machine Sys2Proof.Claims

/-- A buffer filled with `f` of another's cells, and a third filled with `g` of those, holds
`g (f cell)` in each cell of both polynomials. -/
theorem read_ofList_map_words_twice {w v u : Nat} {c : Config} {d i : Nat} (hi : i < c.nMax)
    (hd : i < d) (f : BitVec w → BitVec v) (g : BitVec v → BitVec u) (m : MemoryOf w) :
    Memory.read (Memory.ofList c
        ((Memory.words (Memory.ofList c ((Memory.words m d).map f)) d).map g)) i
      = g (f (Memory.read m i)) := by
  rw [read_ofList_map_words hi, if_pos hd, read_ofList_map_words hi, if_pos hd]

/-- Settles O21: cell by cell, DOWN's word of LIFT's word of an in-domain word is that word. -/
theorem liftThenDownRestoresTheUnsignedPolynomial :
    Obligations.LiftThenDownRestoresTheUnsignedPolynomial := by
  intro s a t hdom hlift hdown
  cases (exec_lift s).symm.trans hlift
  cases (exec_down _).symm.trans hdown
  refine ⟨fun i hi hdeg => ?_, rfl, rfl⟩
  exact (read_ofList_map_words_twice (c := Config.ntps1) hi hdeg _ _ _).trans
    (downWord_liftWord (hdom i hdeg))

/-- Settles O22: cell by cell, LIFT's word of DOWN's word of an in-domain word is that word. -/
theorem downThenLiftRestoresTheSignedPolynomial :
    Obligations.DownThenLiftRestoresTheSignedPolynomial := by
  intro s a t hdom hdown hlift
  cases (exec_down s).symm.trans hdown
  cases (exec_lift _).symm.trans hlift
  refine ⟨fun i hi hdeg => ?_, rfl, rfl⟩
  obtain ⟨hlo, hhi⟩ := hdom i hdeg
  exact (read_ofList_map_words_twice (c := Config.ntps1) hi hdeg _ _ _).trans
    (liftWord_downWord hlo hhi)

end Sys2Proof.Proofs
end

section
/-! O30, O32, O34: the samplers' .U forms, the T+ vector and INVALID_DEGREE (44_sampler.md,
60_exceptions.md R205). -/

namespace Sys2Proof.Proofs

open Sys2Proof Sys2Proof.Machine Sys2Proof.Claims

/-! ## O30: a sample into U is a sample into S and DOWN -/

/-- The cells that exist of a filled buffer are the words it was filled with. -/
theorem take_words_ofList {wc : Nat} (c : Config) (ws : List (BitVec wc)) :
    (Memory.words (Memory.ofList c ws) ws.length).take c.nMax = ws.take c.nMax := by
  apply List.ext_getElem
  · simp
  · intro i _ hi
    obtain ⟨hmax, hlen⟩ : i < c.nMax ∧ i < ws.length := by simpa using hi
    simp [Memory.words, read_ofList, hmax, hlen]

/-- Filling a buffer with the images of a filled buffer's cells is filling it with the images of the
words. -/
theorem ofList_map_words_ofList {w v : Nat} (c : Config) (f : BitVec w → BitVec v)
    (ws : List (BitVec w)) :
    Memory.ofList c ((Memory.words (Memory.ofList c ws) ws.length).map f)
      = Memory.ofList c (ws.map f) := by
  rw [Memory.ofList, ← List.map_take, take_words_ofList, List.map_take, ← Memory.ofList]

theorem TrinaryZeroTop.isTrit_of_mem {d : Nat} {cs : List Int} (h : TrinaryZeroTop d cs) :
    ∀ x ∈ cs, IsTrit x := by
  intro x hx
  obtain ⟨i, hi, rfl⟩ := List.mem_iff_getElem.mp hx
  simpa [List.getD_eq_getElem?_getD, hi] using h.trit i

/-- DOWN of the words of trits stores their unsigned forms. -/
theorem map_downWord_ofInt {cs : List Int} (h : ∀ x ∈ cs, IsTrit x) :
    (cs.map (BitVec.ofInt 32)).map (downWord (8192 : Word)) = cs.map down8192 := by
  rw [List.map_map]
  exact List.map_congr_left fun x hx => (down8192_of_isTrit (h x hx)).symm

/-- A vector of trits sampled into U leaves the U polynomial that DOWN makes of its S form. -/
theorem sameU_sampledU_down {i j : Instr} {s : State} {cs : List Int}
    (hcs : TrinaryZeroTop s.blk.degree.toNat cs)
    (hi : exec i s = .next { s with blk := sampledU cs s.blk })
    (hj : exec j s = .next { s with blk := sampledS cs s.blk }) :
    ∃ t a u, exec i s = .next t ∧ exec j s = .next a ∧ exec .down a = .next u ∧
      SameU t.blk u.blk := by
  refine ⟨_, _, _, hi, hj, exec_down _, rfl, rfl, ?_⟩
  have hlen : s.blk.degree.toNat = (cs.map (BitVec.ofInt 32)).length := by
    rw [List.length_map, hcs.length_eq]
  calc (sampledU cs s.blk).uCells
      = Memory.ofList Config.ntps1 ((cs.map (BitVec.ofInt 32)).map (downWord (8192 : Word))) := by
        rw [map_downWord_ofInt hcs.isTrit_of_mem]
        rfl
    _ = Memory.ofList Config.ntps1 ((sWords (sampledS cs s.blk)).map (downWord (8192 : Word))) := by
        rw [← ofList_map_words_ofList, ← hlen]
        rfl

/-- Settles O30: both samplers sample one vector of trits, T or T+. -/
theorem sampleIntoUnsignedEqualsSampleThenDown :
    Obligations.SampleIntoUnsignedEqualsSampleThenDown := by
  simp only [Obligations.SampleIntoUnsignedEqualsSampleThenDown, List.forall_mem_cons]
  exact ⟨fun s hd => sameU_sampledU_down (tVec_trinaryZeroTop _ _ _) (exec_sampleTU hd)
      (exec_sampleT hd),
    fun s hd => sameU_sampledU_down (tpVec_trinaryZeroTop _ _ _) (exec_sampleTPU hd)
      (exec_sampleTP hd),
    List.forall_mem_nil _⟩

/-! ## O32: the T+ vector -/

/-- Settles O32: negating the even indices changes the sign of the sum, and is done when the sum is
negative; the T+ vector is a trinary vector with a zero top. -/
theorem tPlusHasTheAbsoluteCorrelation : Obligations.TPlusHasTheAbsoluteCorrelation := by
  refine ⟨corrSum_canonicalize, fun c seed d hd => ?_⟩
  have htop := (tpVec_trinaryZeroTop c seed d).top
  exact ⟨tpVec_length c seed d, htop _ (by omega), htop _ (by omega),
    fun hnonneg => if_neg (not_lt.mpr hnonneg)⟩

/-! ## O34: INVALID_DEGREE -/

/-- Each sampler's one test at NTPS-1 is of DEGREE. -/
theorem effect_sampler_of_degree_lt {b : Block} (hd : b.degree.toNat < 2) :
    ∀ i ∈ samplers, effect Config.ntps1 i b = .error .invalidDegree := by
  have intoS : ∀ cs, sampleIntoS Config.ntps1 cs b = .error .invalidDegree := fun cs => by
    rw [sampleIntoS_ntps1, if_neg (not_le.mpr hd)]
  have intoU : ∀ cs, sampleIntoU Config.ntps1 cs b = .error .invalidDegree := fun cs => by
    rw [sampleIntoU_ntps1, if_neg (not_le.mpr hd)]
  simp only [samplers, List.forall_mem_cons]
  exact ⟨intoS _, intoS _, intoU _, intoU _, List.forall_mem_nil _⟩

/-- Settles O34: of the outcomes of a command's effect only a sampler's at DEGREE < 2 is this
error. -/
theorem invalidDegreeIsRaisedByExactlyTheSamplers :
    Obligations.InvalidDegreeIsRaisedByExactlyTheSamplers := by
  refine fun i b => ⟨fun h => ?_, fun ⟨hd, hi⟩ => effect_sampler_of_degree_lt hd i hi⟩
  have hout := effect_outcome Config.ntps1 i b
  rw [h] at hout
  cases hout with
  | invalidDegree hd hi => exact ⟨hd, hi⟩

end Sys2Proof.Proofs
end

section
/-! O7, O57, O58: the script statements SEED, WAIT and RUN as runs of the machine (30_encoding.md
R89, R92). -/

namespace Sys2Proof.Proofs

open Sys2Proof Sys2Proof.Machine Sys2Proof.Claims

/-! ## Runs -/

/-- A run goes on from the state its first step answers. -/
theorem run_succ {s t : core.State} (h : core.step s = .next t) (k : Nat) :
    core.run (k + 1) s = core.run k t := by
  rw [Host.Core.run, h]

/-- A write to the offset of a register that comes next performs the register's write. -/
theorem performs_busWrite {s : State} {r : Reg} {v : Word}
    (h : HostNext s (busWrite (regOffset r) v)) :
    Performs s (writeReg Config.ntps1 v r s.blk) := by
  refine performs_writeReg h ?_
  cases r with
  | seed k => fin_cases k <;> rfl
  | _ => rfl

/-! ## O7: SEED -/

/-- The seed after SEEDk has been written with `w k` for each `k` of `ks`, in order. -/
def seedWrites (w : Fin 8 → Word) (ks : List (Fin 8)) (seed : Vector Word 8) : Vector Word 8 :=
  ks.foldl (fun seed (k : Fin 8) => setSeedReg seed k (w k)) seed

/-- Each register written holds its word, and no other has changed. -/
theorem seedReg_seedWrites (w : Fin 8 → Word) (ks : List (Fin 8)) (seed : Vector Word 8)
    (j : Fin 8) : seedReg (seedWrites w ks seed) j = if j ∈ ks then w j else seedReg seed j := by
  induction ks generalizing seed with
  | nil => rfl
  | cons k ks ih =>
    have hset : seedReg (setSeedReg seed k (w k)) j = if j = k then w j else seedReg seed j := by
      by_cases hj : j = k
      · simp [hj]
      · simp [Fin.val_ne_of_ne (Ne.symm hj), hj]
    rw [seedWrites, List.foldl_cons, ← seedWrites, ih, hset]
    by_cases hmem : j ∈ ks <;> simp [hmem]

/-- An idle block whose host writes SEED registers next has them written, one step each. -/
theorem run_seedWrites {w : Fin 8 → Word} {rest : List Input} (ks : List (Fin 8)) {s : State}
    (hidle : s.blk.phase = .idle) (hreset : s.env.inReset = false)
    (hin : s.env.inputs = (ks.map fun k => busWrite (regOffset (.seed k)) (w k)) ++ rest) :
    ∃ t, Host.Core.run core ks.length s = .next t ∧ t.env.inputs = rest ∧
      t.blk = { s.blk with seed := seedWrites w ks s.blk.seed } := by
  induction ks generalizing s with
  | nil => exact ⟨s, rfl, hin, rfl⟩
  | cons k ks ih =>
    have hnext : HostNext s (busWrite (regOffset (.seed k)) (w k)) :=
      ⟨hreset, .inl hidle, by simp [hin]⟩
    have hwrite : writeReg Config.ntps1 (w k) (.seed k) s.blk
        = { s.blk with seed := setSeedReg s.blk.seed k (w k) } := by
      rw [writeReg, writeIdle_of_idle hidle]
    obtain ⟨t, hstep, hblk, hinputs, -, hkept⟩ := performs_busWrite hnext
    rw [hwrite] at hblk
    obtain ⟨u, hrun, hrest, hseed⟩ := ih (s := t) (by rw [hblk]; exact hidle) (hkept.trans hreset)
      (by rw [hinputs, hin]; rfl)
    refine ⟨u, (run_succ hstep _).trans hrun, hrest, ?_⟩
    rw [hseed, hblk]
    rfl

/-- Byte `m` of a word put together from four. -/
theorem extractLsb'_wordOfBytes (f : Nat → Byte) {m : Nat} (hm : m < 4) :
    (wordOfBytes (f 0) (f 1) (f 2) (f 3)).extractLsb' (8 * m) 8 = f m := by
  rw [wordOfBytes]
  interval_cases m
  all_goals
    simp (disch := decide) only [BitVec.extractLsb'_append_eq_of_add_le,
      BitVec.extractLsb'_append_eq_of_le]
    exact BitVec.extractLsb'_eq_self

/-- Settles O7: the eight writes leave seed word k in SEEDk, whose byte is the byte given. -/
theorem seedStatementLoadsTheSeedBytes : Obligations.SeedStatementLoadsTheSeedBytes := by
  intro s bytes rest _ hidle hreset hin
  obtain ⟨t, hrun, hrest, hblk⟩ := run_seedWrites (w := fun k => seedWord bytes k)
    (List.finRange 8) hidle hreset hin
  refine ⟨t, by simpa using hrun, hrest, fun j hj => ?_, by rw [hblk]⟩
  have hreg := seedReg_seedWrites (fun k => seedWord bytes k) (List.finRange 8) s.blk.seed
    ⟨j / 4, by omega⟩
  have hbyte := extractLsb'_wordOfBytes (fun m => bytes.getD (4 * (j / 4) + m) 0)
    (Nat.mod_lt j (by decide : 0 < 4))
  rw [Nat.div_add_mod] at hbyte
  rw [if_pos (List.mem_finRange _)] at hreg
  rw [seedByte, hblk]
  exact (congrArg (fun v : Word => v.extractLsb' (8 * (j % 4)) 8) hreg).trans hbyte

/-! ## O57: WAIT -/

@[simp] theorem readInput_hostTurns (c : Config) (t : Target) (s : State) :
    (readInput c t s).env.hostTurns = s.env.hostTurns := by
  unfold readInput
  dsimp only
  split <;> rfl

/-- STATUS reads as held, BUSY or not (70_reset_and_hazards.md R240). -/
theorem readValue_status (c : Config) (b : Block) (n : Nat) :
    readValue c b n (.reg .status) = statusWord b := by
  simp [readValue, readIsDraw, unstableWhileBusy, readTarget]

theorem waitInput_replies (c : Config) (s : State) :
    (waitInput c s).env.replies = statusWord s.blk :: s.env.replies := by
  rw [waitInput, readInput_replies]
  split <;> simp [readValue_status]

theorem waitInput_hostTurns (c : Config) (s : State) :
    (waitInput c s).env.hostTurns = s.env.hostTurns := by
  rw [waitInput, readInput_hostTurns]
  split <;> rfl

/-- A WAIT that comes next reads STATUS once. -/
theorem step_of_hostNext_wait {s : State} (h : HostNext s .wait) :
    step s = .next (waitInput Config.ntps1 (inputTaken s)) := by
  have hreset : (inputTaken s).env.inReset = false := h.1
  rw [step_of_hostNext h]
  simp [perform, hreset]

/-- From a BUSY block with WAIT next the polls of the host's turns, the engine's step and one more
read end the WAIT. -/
theorem run_wait {rest : List Input} (n : Nat) {s : State} (hturns : s.env.hostTurns = n)
    (hbusy : s.blk.phase = .busy) (hreset : s.env.inReset = false)
    (hin : s.env.inputs = .wait :: rest) :
    ∃ t, Host.Core.run core (n + 2) s = .next t ∧ t.blk = engineBlock s.blk ∧
      t.env.inputs = rest ∧
      t.env.replies = statusWord (engineBlock s.blk) ::
        (List.replicate n (statusWord s.blk) ++ s.env.replies) := by
  induction n generalizing s with
  | zero =>
    have hengine := (step_of_engineNext ⟨hbusy, hreset, .inl hturns⟩).trans (engineStep_eq s)
    have hread := step_of_hostNext_wait (s := { s with blk := engineBlock s.blk })
      ⟨hreset, .inl (engineBlock_phase s.blk), by simp [hin]⟩
    refine ⟨_, (run_succ hengine 1).trans (run_succ hread 0), waitInput_blk _ _, ?_, ?_⟩
    · simp [waitInput_inputs, busyBit, inputTaken, hin]
    · simp [waitInput_replies, inputTaken]
  | succ n ih =>
    have hpoll := step_of_hostNext_wait (s := s) ⟨hreset, .inr (by omega), by simp [hin]⟩
    obtain ⟨t, hrun, hblk, hrest, hreplies⟩ :=
      ih (s := waitInput Config.ntps1 (inputTaken s))
        (by simp [waitInput_hostTurns, inputTaken, hturns])
        (by simpa [inputTaken] using hbusy) (by simpa [inputTaken] using hreset)
        (by simp [waitInput_inputs, busyBit, inputTaken, hbusy, hin])
    refine ⟨t, (run_succ hpoll _).trans hrun, by simpa [inputTaken] using hblk, hrest, ?_⟩
    rw [hreplies]
    simp [waitInput_replies, inputTaken, List.replicate_succ']

/-- Settles O57: the run is `run_wait`, and the engine's step of the first state leaves that
block. -/
theorem waitEndsAfterTheEngineStep : Obligations.WaitEndsAfterTheEngineStep := by
  intro s rest hbusy hreset hin
  obtain ⟨t, hrun, hblk, hrest, hreplies⟩ := run_wait _ rfl hbusy hreset hin
  exact ⟨_, t, engineStep_eq s, hrun, hblk, engineBlock_phase s.blk, hrest, hreplies⟩

/-! ## O58: RUN -/

/-- Settles O58: the CMD write is accepted, its word decodes to the command, and the WAIT behind it
ends after the engine's step. -/
theorem runStatementPerformsItsCommand : Obligations.RunStatementPerformsItsCommand := by
  intro s n rest hidle herr hreset hin
  have hnext : HostNext s (issue n) := ⟨hreset, .inl hidle, by rw [hin]; rfl⟩
  obtain ⟨a, hissue, hblk, hinputs, -, hkept⟩ := performs_busWrite (r := .cmd) hnext
  rw [writeReg, writeCmd_of_accepted ⟨hidle, herr⟩] at hblk
  obtain ⟨t, hrun, hend, hrest, -⟩ := run_wait (rest := rest) a.env.hostTurns (s := a) rfl
    (by rw [hblk]) (hkept.trans hreset) (by rw [hinputs, hin]; rfl)
  have hdecode : decode a.blk.lcmd = .ok (commandOf n) := by
    rw [hblk]
    exact decode_encode (commandOf n)
  rw [engineBlock_of_decode_eq_ok hdecode, hblk] at hend
  refine ⟨a.env.hostTurns + 2 + 1, t, _, (run_succ hissue _).trans hrun,
    exec_eq_retire (commandOf n) _, hend, ?_, hrest⟩
  rw [hend, settle_phase]

end Sys2Proof.Proofs
end
